-- ==== Sys2Proof/Word.lean ====
section
/-! DEFINITION. The word types of the block (00_scope.md R5): every value is an unsigned bit vector of a fixed width. -/

namespace Sys2Proof

/-- A byte (R5): one packet buffer byte, an operand byte, an 8-bit port. -/
abbrev Byte := BitVec 8

/-- A `u16` (R5): the accumulator, the counters, the transport space. -/
abbrev Half := BitVec 16

/-- A word of the host bus and a command word (20_memory.md R51, 30_encoding.md R80). -/
abbrev Word := BitVec 32

/-- A byte offset of the host register space (20_memory.md R50). -/
abbrev Offset := BitVec 12

end Sys2Proof
end

