-- ==== Sys2Proof/Config.lean ====
section
/-! DEFINITION. What is fixed for the block: the parameters of 00_scope.md R4 at the spec's values, the shape of the
input ports (10_state.md R24), and the free values that the spec leaves unspecified. -/

namespace Sys2Proof

/-- The two slots of a statistics array (10_state.md R24): index 0 or 1. -/
structure Slots where
  slot0 : Byte
  slot1 : Byte
deriving DecidableEq, Repr, Inhabited

/-- The values at the input ports (10_state.md R24); one sample of all of them is `E` (R25). -/
structure Ports where
  version   : BitVec 1
  nodeId    : BitVec 1
  locRssi   : Slots
  locNoise  : Slots
  remRssi   : Slots
  remNoise  : Slots
  rxErrors  : Half
  corrected : Half
  txbuf     : Byte
  txSpace   : Half
deriving DecidableEq, Repr, Inhabited

namespace Config

/-- `PAYLOAD_LEN`, a parameter of the spec (decision D12, log 8). -/
def payloadLen : Nat := 12

/-- `HDR_LEN`. -/
def hdrLen : Nat := 6

/-- `CRC_LEN`. -/
def crcLen : Nat := 2

/-- `FRAME_LEN = HDR_LEN + PAYLOAD_LEN + CRC_LEN`. -/
def frameLen : Nat := hdrLen + payloadLen + crcLen

/-- `TX_THRESHOLD` (43_composer.md R194). -/
def txThreshold : Half := 20

/-- `STX_V09`. -/
def stxV09 : Byte := 0x55

/-- `STX_V10`. -/
def stxV10 : Byte := 0xFE

/-- `SYSID`, ASCII '3' (log 12). -/
def sysId : Byte := 0x33

/-- `COMPID`, ASCII 'D' (log 12). -/
def compId : Byte := 0x44

/-- `MSGID`, 166. -/
def msgId : Byte := 0xA6

/-- `CRC_SEED_V10`, 21. -/
def crcSeedV10 : Byte := 0x15

/-- `CRC_INIT`. -/
def crcInit : Half := 0xFFFF

/-- `PBUF_CAP`, a parameter of the spec (decision D3, log 8): indices 0..262. -/
def pbufCap : Nat := 263

/-- `SEQ_RESET`, a parameter of the spec (decision D18, log 8). -/
def seqReset : Byte := 0x00

/-- `VERSION_V10`, a parameter of the spec (decision D10, log 8): the port value that selects v1.0. -/
def versionV10 : BitVec 1 := 1

/-- FREE VALUE: what byte `i` of `PBUF` holds after the reset number `draw`, until something writes it
(10_state.md R27, 70_reset_and_hazards.md R261, 93_implementation_defined.md "any value"; log 3). -/
opaque pbufReset (draw i : Nat) : Byte

/-- FREE VALUE: what stands at the input ports before the environment first drives them (10_state.md R25,
70_reset_and_hazards.md R265; log 4). -/
opaque portsAtReset : Ports

end Config

end Sys2Proof
end

