-- ==== Sys2Proof/Syntax.lean ====
section
/-! DEFINITION. What the block is told: the commands of 30_encoding.md R83, the raw fields of a command word (R81), the
bus access record (20_memory.md R51), the inputs of the block, and the assembler's lines (R88, R89). -/

namespace Sys2Proof

/-- The commands, one constructor per row of spec/opcode_table.json (30_encoding.md R83). An operand is a byte by
its type, so every term is a legal command (R84). -/
inductive Instr
  | crcInit
  | crcByte (b : Byte)
  | crcApp
  | crcAppS (seed : Byte)
  | fixEnd
  | hdr
  | encode
  | report
deriving DecidableEq, Repr

/-- The raw fields of a command word (30_encoding.md R81), legal or not. -/
structure CmdFields where
  opc  : BitVec 8
  rsv1 : BitVec 7
  s    : BitVec 1
  rsv0 : BitVec 8
  imm8 : BitVec 8
deriving DecidableEq, Repr

/-- The size of a bus access in bytes (20_memory.md R51): 1, 2 or 4. -/
inductive AccessSize
  | one
  | two
  | four
deriving DecidableEq, Repr

/-- The kind of a bus access (20_memory.md R51); only a write carries data. -/
inductive AccessKind
  | read
  | write (wdata : Word)
deriving DecidableEq, Repr

/-- A host bus access (20_memory.md R51, 30_encoding.md R90), legal or not. -/
structure BusAccess where
  kind   : AccessKind
  offset : Offset
  size   : AccessSize
deriving DecidableEq, Repr

/-- What can reach the block from outside, one at a time (10_state.md R20, log 1). -/
inductive Input
  /-- The host's next bus access (20_memory.md R51). -/
  | access (a : BusAccess)
  /-- The environment drives new values onto the input ports, between accesses (10_state.md R24, R25; log 4). -/
  | ports (p : Ports)
  /-- The reset input is asserted, between accesses (70_reset_and_hazards.md R260; log 9). -/
  | reset
deriving DecidableEq, Repr

/-- The mnemonics of 30_encoding.md R83. -/
inductive Mnemonic
  | crcInit
  | crcByte
  | crcApp
  | crcAppS
  | fixEnd
  | hdr
  | encode
  | report
deriving DecidableEq, Repr

/-- A line of a program as it is written (30_encoding.md R88, R89): numbers are as written, in range or not. -/
inductive Line
  | command (m : Mnemonic) (operand : Option Nat)
  | wr (off val : Nat)
  | rd (off : Nat) (expected : Option Nat)
  | wrbuf (i b : Nat)
  | rdbuf (i : Nat)
  | rdacc
  | rdseq
  | rdstat
deriving DecidableEq, Repr

end Sys2Proof
end

