-- ==== Sys2Proof/WellFormed.lean ====
section
/-! DEFINITION. Which raw terms are legal: command fields (30_encoding.md R84, R85), bus accesses (R90, 20_memory.md R55
to R57) and assembler lines (R88, R89). These are checks of their own, written apart from the decoder; Laws and the
obligations compare the two. A term of `Instr` needs no check: its operands are bytes by type. -/

namespace Sys2Proof

namespace CmdFields

/-- R84: `RSV1` and `RSV0` are 0 in every command. -/
def reservedZero (f : CmdFields) : Bool := f.rsv1 == 0 && f.rsv0 == 0

/-- R85: `OPC` is none of 0x00 and 0x08..0xFF. -/
def opcodeKnown (f : CmdFields) : Bool := decide (1 ≤ f.opc.toNat) && decide (f.opc.toNat ≤ 7)

/-- R84: which of `S` and `IMM8` the opcode leaves free, the others being 0. -/
def operandLegal (f : CmdFields) : Bool :=
  if f.opc = 2 then f.s == 0
  else if f.opc = 3 then f.s == 1 || f.imm8 == 0
  else f.s == 0 && f.imm8 == 0

/-- The fields are those of a legal command word (30_encoding.md R85, negated). -/
def wf (f : CmdFields) : Bool := f.reservedZero && f.opcodeKnown && f.operandLegal

end CmdFields

namespace BusAccess

/-- 20_memory.md R56: only 4-byte accesses are legal. -/
def sizeLegal (a : BusAccess) : Bool := a.size == .four

/-- 20_memory.md R55: `offset[1:0] = 0b00`. -/
def aligned (a : BusAccess) : Bool := a.offset.toNat % 4 == 0

/-- 20_memory.md R52, R57: the offset lies in neither unmapped range. -/
def mapped (a : BusAccess) : Bool :=
  decide (a.offset.toNat < 0x010) || (decide (0x400 ≤ a.offset.toNat) && decide (a.offset.toNat < 0x81C))

/-- A legal bus access (30_encoding.md R90). -/
def wf (a : BusAccess) : Bool := a.sizeLegal && a.aligned && a.mapped

end BusAccess

namespace Mnemonic

/-- 30_encoding.md R88: only `CRCBYTE` and `CRCAPP.S` take an operand. -/
def takesByte : Mnemonic → Bool
  | .crcByte | .crcAppS => true
  | .crcInit | .crcApp | .fixEnd | .hdr | .encode | .report => false

end Mnemonic

namespace Line

/-- A number that fits the 12-bit offset of a bus access (20_memory.md R51). -/
def offsetFits (off : Nat) : Bool := decide (off < 4096)

/-- A number that fits the 32-bit data of a bus access (20_memory.md R51). -/
def wordFits (val : Nat) : Bool := decide (val < 4294967296)

/-- The line can be assembled: a command has an operand exactly when its mnemonic takes one, in 0..255 (R88), and
the numbers of an access fit the record of R51 (log 11). -/
def wf : Line → Bool
  | .command m none     => !m.takesByte
  | .command m (some n) => m.takesByte && decide (n ≤ 255)
  | .wr off val         => offsetFits off && wordFits val
  | .rd off none        => offsetFits off
  | .rd off (some e)    => offsetFits off && wordFits e
  | .wrbuf i b          => offsetFits (0x400 + 4 * i) && wordFits b
  | .rdbuf i            => offsetFits (0x400 + 4 * i)
  | .rdacc | .rdseq | .rdstat => true

end Line

end Sys2Proof
end

