-- ==== Sys2Proof/Decode.lean ====
section
/-! DEFINITION. The decoder of command words (30_encoding.md R91) and of bus accesses (R90), total and rejecting by name;
then the encoder (R83), the opcode table as rows of match and mask, and the host's table entry point. -/

namespace Sys2Proof

/-- Why a command word is illegal (30_encoding.md R85); each raises ERR_CMD. -/
inductive CmdReject
  | reserved
  | opcode
  | operand
deriving DecidableEq, Repr

/-- Why a bus access is refused, in the order of the checks (20_memory.md R53); each raises ERR_BUS. -/
inductive BusReject
  | size
  | alignment
  | unmapped
deriving DecidableEq, Repr

/-- What a mapped offset names (20_memory.md R52). -/
inductive Target
  | cmd
  | status
  | acc
  | seq
  | pbuf (i : Nat)
deriving DecidableEq, Repr

/-- The fields of a command word (30_encoding.md R81). -/
def fieldsOf (w : Word) : CmdFields where
  opc  := w.extractLsb' 24 8
  rsv1 := w.extractLsb' 17 7
  s    := w.extractLsb' 16 1
  rsv0 := w.extractLsb' 8 8
  imm8 := w.extractLsb' 0 8

/-- A command without operands: `S` and `IMM8` are 0 (30_encoding.md R84). -/
def noOperand (f : CmdFields) (i : Instr) : Except CmdReject Instr :=
  if f.s = 0 ∧ f.imm8 = 0 then .ok i else .error .operand

/-- The decoder of 30_encoding.md R91 on a word's fields: the reserved fields first, then the opcode, then its operand
fields. -/
def decodeFields (f : CmdFields) : Except CmdReject Instr :=
  if f.rsv1 ≠ 0 ∨ f.rsv0 ≠ 0 then .error .reserved
  else if f.opc = 0x01 then noOperand f .crcInit
  else if f.opc = 0x02 then (if f.s = 0 then .ok (.crcByte f.imm8) else .error .operand)
  else if f.opc = 0x03 then (if f.s = 0 then noOperand f .crcApp else .ok (.crcAppS f.imm8))
  else if f.opc = 0x04 then noOperand f .fixEnd
  else if f.opc = 0x05 then noOperand f .hdr
  else if f.opc = 0x06 then noOperand f .encode
  else if f.opc = 0x07 then noOperand f .report
  else .error .opcode

/-- The decoder of command words (30_encoding.md R91). -/
def decode (w : Word) : Except CmdReject Instr := decodeFields (fieldsOf w)

/-- The address map of the host register space (20_memory.md R52), for an aligned offset. -/
def targetOf (offset : Offset) : Option Target :=
  let n := offset.toNat
  if n = 0x000 then some .cmd
  else if n = 0x004 then some .status
  else if n = 0x008 then some .acc
  else if n = 0x00C then some .seq
  else if 0x400 ≤ n ∧ n ≤ 0x818 then some (.pbuf ((n - 0x400) / 4))
  else none

/-- The checks of 20_memory.md R53 and R54, in their order: size (R56), alignment (R55), mapping (R57). -/
def decodeAccess (a : BusAccess) : Except BusReject Target :=
  match a.size with
  | .one => .error .size
  | .two => .error .size
  | .four =>
    if a.offset.extractLsb' 0 2 ≠ 0 then .error .alignment
    else
      match targetOf a.offset with
      | some t => .ok t
      | none   => .error .unmapped

/-- A word from its fields (30_encoding.md R81). -/
def wordOf (f : CmdFields) : Word := f.opc ++ f.rsv1 ++ f.s ++ f.rsv0 ++ f.imm8

/-- The fields of a command, its row of 30_encoding.md R83. -/
def encodeFields : Instr → CmdFields
  | .crcInit    => { opc := 0x01, rsv1 := 0, s := 0, rsv0 := 0, imm8 := 0 }
  | .crcByte b  => { opc := 0x02, rsv1 := 0, s := 0, rsv0 := 0, imm8 := b }
  | .crcApp     => { opc := 0x03, rsv1 := 0, s := 0, rsv0 := 0, imm8 := 0 }
  | .crcAppS b  => { opc := 0x03, rsv1 := 0, s := 1, rsv0 := 0, imm8 := b }
  | .fixEnd     => { opc := 0x04, rsv1 := 0, s := 0, rsv0 := 0, imm8 := 0 }
  | .hdr        => { opc := 0x05, rsv1 := 0, s := 0, rsv0 := 0, imm8 := 0 }
  | .encode     => { opc := 0x06, rsv1 := 0, s := 0, rsv0 := 0, imm8 := 0 }
  | .report     => { opc := 0x07, rsv1 := 0, s := 0, rsv0 := 0, imm8 := 0 }

/-- The encoder: the one word of a command (30_encoding.md R80, R83). -/
def encode (i : Instr) : Word := wordOf (encodeFields i)

/-- A row of the machine-readable opcode map: which mnemonic the words `w` with `w AND mask = match` have. -/
structure OpcodeRow where
  mnemonic : Mnemonic
  pattern  : Word
  mask     : Word
deriving DecidableEq, Repr

/-- The opcode map (30_encoding.md R83, spec/opcode_table.json). -/
def opcodeRows : List OpcodeRow :=
  [ ⟨.crcInit, 0x01000000, 0xFFFFFFFF⟩,
    ⟨.crcByte, 0x02000000, 0xFFFFFF00⟩,
    ⟨.crcApp,  0x03000000, 0xFFFFFFFF⟩,
    ⟨.crcAppS, 0x03010000, 0xFFFFFF00⟩,
    ⟨.fixEnd,  0x04000000, 0xFFFFFFFF⟩,
    ⟨.hdr,     0x05000000, 0xFFFFFFFF⟩,
    ⟨.encode,  0x06000000, 0xFFFFFFFF⟩,
    ⟨.report,  0x07000000, 0xFFFFFFFF⟩ ]

/-- The row covers the word. -/
def OpcodeRow.covers (r : OpcodeRow) (w : Word) : Bool := w &&& r.mask == r.pattern

/-- The mnemonic of a command. -/
def Instr.mnemonic : Instr → Mnemonic
  | .crcInit   => .crcInit
  | .crcByte _ => .crcByte
  | .crcApp    => .crcApp
  | .crcAppS _ => .crcAppS
  | .fixEnd    => .fixEnd
  | .hdr       => .hdr
  | .encode    => .encode
  | .report    => .report

/-- The instruction that the decoder reads from a table word of `nbits` bits, the bits above them 0. A command is one
32-bit word that the bus moves whole, so there is no byte order to apply (20_memory.md R60, log 16). -/
def decodeTableWord (nbits w : Nat) : Option Instr :=
  match decode (BitVec.ofNat 32 (w % 2 ^ nbits)) with
  | .ok i    => some i
  | .error _ => none

end Sys2Proof
end

