-- ==== Sys2Proof/Machine/State.lean ====
section
/-! DEFINITION. The state of the block (10_state.md R21), what stands at its ports (R24, R26), and the model's own records;
its error and refusal types; and the state after reset (70_reset_and_hazards.md R261). -/

namespace Sys2Proof.Machine

/-- The packet buffer `PBUF` as the list of the bytes written since the last reset, by index: indices strictly rising,
each below `PBUF_CAP` (`Memory.wf`). An index that is not listed has not been written since reset and holds the reset's
unspecified byte (10_state.md R27, log 3). -/
abbrev Memory := List Host.Cell

/-- The errors of 60_exceptions.md, named as R233 names them. An error is RECORDED in its sticky `STATUS` bit and the
block goes on (R237, R239), so raising one is a next state: no step of this model ends in `Outcome.fault` (log 5). -/
inductive Fault
  /-- `ERR_CMD`, cause code 1 (R231). Raised by the decoder on an illegal command word. Safe: it is the spec's own effect. -/
  | errCmd
  /-- `ERR_BUS`, cause code 2 (R232). Raised by a bus access of a bad size, misaligned or unmapped. Safe: it is the spec's own effect. -/
  | errBus
deriving DecidableEq, Repr

/-- Why the model has no meaning for an instruction. -/
inductive Refusal
  /-- Raised by an arm of `exec` without a meaning. Safe: the run stops. No arm raises it: every command is modelled. -/
  | notModelled (mnemonic : String)
deriving DecidableEq, Repr

structure State where
  /-- `PBUF[0..262]` (10_state.md R27). -/
  pbuf      : Memory
  /-- `SEQ` (R28). -/
  seq       : Byte
  /-- `ACC` (R29). -/
  acc       : Half
  /-- `STATUS.LAST` (R31). -/
  last      : BitVec 2
  /-- `STATUS.ERR_CMD` (R32). -/
  errCmd    : Bool
  /-- `STATUS.ERR_BUS` (R33). -/
  errBus    : Bool
  /-- The values that stand at the input ports (R24): a command's sample `E` (R25). -/
  ports     : Ports
  /-- What the host, the environment and the reset input do next, oldest first (R20; log 1). The model's own field. -/
  inputs    : List Input
  /-- The frames emitted by `TxWrite`, oldest first (R26, 43_composer.md R203). -/
  output    : List (List Byte)
  /-- The words that bus reads returned, oldest first (20_memory.md R51, R53; log 6). The model's own field. -/
  readData  : List Word
  /-- Which draw of the unspecified reset bytes `PBUF` holds (log 10). The model's own field. -/
  resetDraw : Nat
deriving DecidableEq, Repr

/-- The state after reset (70_reset_and_hazards.md R261): `PBUF` unspecified (nothing listed), `SEQ` 0x00, `ACC` 0xFFFF,
`STATUS` 0. Nothing has been emitted or read and no input waits; the ports hold a free value (log 4). -/
def State.reset : State where
  pbuf      := []
  seq       := Config.seqReset
  acc       := Config.crcInit
  last      := 0
  errCmd    := false
  errBus    := false
  ports     := Config.portsAtReset
  inputs    := []
  output    := []
  readData  := []
  resetDraw := 0

end Sys2Proof.Machine
end

