-- ==== Sys2Proof/Machine/Ops.lean ====
section
/-! DEFINITION. The named operations over the state (00_scope.md R7): the packet buffer, the registers, raising an error,
the transport write, the bus's read data, and the reset input. -/

namespace Sys2Proof.Machine

/-! ### The packet buffer as a list of cells -/

/-- What is listed for index `i`. -/
def Memory.lookup : Memory → Nat → Option Byte
  | [], _ => none
  | (j, w) :: m, i => if j = i then some w else Memory.lookup m i

/-- List byte `v` for index `i`, keeping the indices strictly rising. -/
def Memory.store : Memory → Nat → Byte → Memory
  | [], i, v => [(i, v)]
  | (j, w) :: m, i, v =>
    if i < j then (i, v) :: (j, w) :: m
    else if i = j then (i, v) :: m
    else (j, w) :: Memory.store m i v

/-- The indices of the list rise strictly, from one above `lo` when there is a `lo`, and stay below `PBUF_CAP`. -/
def Memory.risingFrom : Option Nat → Memory → Bool
  | _, [] => true
  | lo, (i, _) :: m =>
    (match lo with
      | none => true
      | some b => decide (b < i)) &&
    decide (i < Config.pbufCap) && Memory.risingFrom (some i) m

/-- The canonical form of the packet buffer's list: strictly rising indices, all of `PBUF` (10_state.md R27). A listed
byte is never "what an unlisted index reads as", since that is unspecified (log 3). -/
def Memory.wf (m : Memory) : Bool := Memory.risingFrom none m

/-! ### Reading and writing the state -/

/-- `PBUF[i]` (00_scope.md R7). An index not written since reset reads as the reset's unspecified byte (10_state.md R27,
log 3). No rule reads an index above 262 (20_memory.md R68; log 7). -/
def State.readByte (s : State) (i : Nat) : Byte :=
  match Memory.lookup s.pbuf i with
  | some v => v
  | none   => Config.pbufReset s.resetDraw i

/-- `PBUF[i] <- v` (00_scope.md R7). There is no byte above index 262, and no rule writes one (20_memory.md R68; log 7). -/
def State.writeByte (i : Nat) (v : Byte) (s : State) : State :=
  if i < Config.pbufCap then { s with pbuf := Memory.store s.pbuf i v } else s

/-- `PBUF[i .. i + n - 1]`, in increasing index order. -/
def State.readBytes (s : State) (i n : Nat) : List Byte :=
  (List.range n).map (fun k => s.readByte (i + k))

/-- Writes the bytes to `PBUF[i]`, `PBUF[i + 1]` and so on, in that order. -/
def State.writeBytes : Nat → List Byte → State → State
  | _, [], s => s
  | i, v :: vs, s => State.writeBytes (i + 1) vs (s.writeByte i v)

/-- `ACC <- v` (10_state.md R29). -/
def State.setAcc (v : Half) (s : State) : State := { s with acc := v }

/-- `SEQ <- v` (10_state.md R28). -/
def State.setSeq (v : Byte) (s : State) : State := { s with seq := v }

/-- `STATUS.LAST <- v` (10_state.md R31). -/
def State.setLast (v : BitVec 2) (s : State) : State := { s with last := v }

/-- The environment sample `E` of a command: what stands at the input ports when it starts (10_state.md R25). A command
is one step, so the ports cannot change inside it (00_scope.md R8). -/
def State.sample (s : State) : Ports := s.ports

/-- `TxWrite(bytes)` (43_composer.md R203): one event at the end of the run's output list. -/
def State.txWrite (bytes : List Byte) (s : State) : State := { s with output := s.output ++ [bytes] }

/-- A bus read returns `v` (20_memory.md R51, R53; log 6). -/
def State.respond (v : Word) (s : State) : State := { s with readData := s.readData ++ [v] }

/-- `raise`: the error's sticky bit is set and nothing else changes (60_exceptions.md R231, R232, R235). Nothing is
saved and control goes nowhere (R239), and there is no return (R240). -/
def State.raise (e : Fault) (s : State) : State :=
  match e with
  | .errCmd => { s with errCmd := true }
  | .errBus => { s with errBus := true }

/-- What waits outside is now `l` (log 1). -/
def State.setInputs (l : List Input) (s : State) : State := { s with inputs := l }

/-- The environment drives the input ports (10_state.md R20, R24): no state of the block changes. -/
def State.drivePorts (p : Ports) (s : State) : State := { s with ports := p }

/-- The reset input (70_reset_and_hazards.md R260, R261): every state element takes its reset value, `PBUF`'s bytes
being a new unspecified draw (log 10). What was emitted and read stays as it was, nothing is emitted, and the ports
and the waiting inputs are the outside's (log 9). -/
def State.resetBlock (s : State) : State :=
  { s with
    pbuf := [], seq := Config.seqReset, acc := Config.crcInit, last := 0, errCmd := false, errBus := false,
    resetDraw := s.resetDraw + 1 }

end Sys2Proof.Machine
end

