-- ==== Sys2Proof/Machine/Operands.lean ====
section
/-! DEFINITION. What a command takes its values from: byte halves of a `u16`, the version flag and the statistics
selection of a sample, and the buffer span that `PBUF[1]` gives CRCAPP. A command word's operand byte is used as it
stands (30_encoding.md R82). -/

namespace Sys2Proof.Machine

/-- `v[7:0]` of a `u16` (00_scope.md R5). -/
def loByte (v : Half) : Byte := v.extractLsb' 0 8

/-- `v[15:8]` of a `u16` (00_scope.md R5). -/
def hiByte (v : Half) : Byte := v.extractLsb' 8 8

/-- A `u16` in natural order, low byte first (41_encoder.md R146). -/
def naturalOrder (v : Half) : List Byte := [loByte v, hiByte v]

/-- The sample selects the newer generation v1.0 (10_state.md R24, decision D10). -/
def isV10 (e : Ports) : Bool := e.version == Config.versionV10

/-- Slot `p` of a statistics array (10_state.md R24). -/
def slotOf (a : Slots) (p : BitVec 1) : Byte := if p = 0 then a.slot0 else a.slot1

/-- The slot that all four statistics fields come from, `1 - node_id` (41_encoder.md R141). -/
def statSlot (e : Ports) : BitVec 1 := 1 - e.nodeId

/-- `rssi` (41_encoder.md R141). -/
def rssiOf (e : Ports) : Byte := slotOf e.locRssi (statSlot e)

/-- `noise` (41_encoder.md R141). -/
def noiseOf (e : Ports) : Byte := slotOf e.locNoise (statSlot e)

/-- `remrssi` (41_encoder.md R141). -/
def remrssiOf (e : Ports) : Byte := slotOf e.remRssi (statSlot e)

/-- `remnoise` (41_encoder.md R141). -/
def remnoiseOf (e : Ports) : Byte := slotOf e.remNoise (statSlot e)

/-- `L' = PBUF[1]`, 0..255 (40_checksum.md R117). -/
def State.payloadLen (s : State) : Nat := (s.readByte 1).toNat

/-- The covered bytes `PBUF[1]` to `PBUF[5 + L']`, in increasing index order (40_checksum.md R118). -/
def State.coveredBytes (s : State) : List Byte := s.readBytes 1 (5 + s.payloadLen)

end Sys2Proof.Machine
end

