-- ==== Sys2Proof/Machine/Flags.lean ====
section
/-! DEFINITION. `STATUS`, the block's only status (10_state.md R30, R35): the outcomes of a REPORT, the word that a bus read
returns, and the cause codes of the errors. -/

namespace Sys2Proof.Machine

/-- `STATUS.LAST = 0b01`, SENT (10_state.md R31). -/
def lastSent : BitVec 2 := 0b01

/-- `STATUS.LAST = 0b10`, DROPPED (10_state.md R31). -/
def lastDropped : BitVec 2 := 0b10

/-- `{STATUS.ERR_BUS, STATUS.ERR_CMD, STATUS.LAST[1:0]}`, zero extended (20_memory.md R53, 10_state.md R30). -/
def State.statusWord (s : State) : Word :=
  (BitVec.ofBool s.errBus ++ BitVec.ofBool s.errCmd ++ s.last).setWidth 32

/-- The `STATUS` bit that records an error (10_state.md R30). -/
def Fault.statusBit : Fault → Nat
  | .errCmd => 2
  | .errBus => 3

/-- The cause code of an error: the number of its `STATUS` bit minus 1 (60_exceptions.md R233). -/
def Fault.causeCode (e : Fault) : Nat := e.statusBit - 1

/-- The flow-control gate: the transport has room for a frame (43_composer.md R194). -/
def txFits (e : Ports) : Bool := decide (Config.txThreshold ≤ e.txSpace)

end Sys2Proof.Machine
end

