-- ==== Sys2Proof/Machine/ByteOrder.lean ====
section
/-! DEFINITION. The byte-order fixup (42_byteorder.md): the pair swap and the meaning of FIXEND. -/

namespace Sys2Proof.Machine

/-- `swap2(i)` (42_byteorder.md R170): both bytes are read before either is written. -/
def State.swap2 (i : Nat) (s : State) : State :=
  let t := s.readByte i
  (s.writeByte i (s.readByte (i + 1))).writeByte (i + 1) t

/-- FIXEND on the sample `e` (42_byteorder.md R173): the span 11..14 of R172 for v0.9, nothing for v1.0. -/
def State.fixEndianness (e : Ports) (s : State) : State :=
  if isV10 e then s else (s.swap2 11).swap2 13

/-- FIXEND (42_byteorder.md R173). -/
def execFixEnd (s : State) : Host.Outcome State Fault Refusal := .next (s.fixEndianness s.sample)

end Sys2Proof.Machine
end

