-- ==== Sys2Proof/Machine/Checksum.lean ====
section
/-! DEFINITION. The checksum engine (40_checksum.md): the accumulation step, a checksum of bytes, and the meanings of CRCINIT,
CRCBYTE, CRCAPP and CRCAPP.S. -/

namespace Sys2Proof.Machine

/-- `crc_step(acc, b)` (40_checksum.md R110): the mixed value `t` has 8 bits (R111). -/
def crcStep (acc : Half) (b : Byte) : Half :=
  let t1 : Byte := b ^^^ loByte acc
  let t : Byte := t1 ^^^ (t1 <<< 4)
  (acc >>> 8) ^^^ (t.setWidth 16 <<< 8) ^^^ (t.setWidth 16 <<< 3) ^^^ (t >>> 4).setWidth 16

/-- One round of `crc_bitwise` (40_checksum.md R112). -/
def crcBit (a : Half) : Half := if a.getLsbD 0 then (a >>> 1) ^^^ 0x8408 else a >>> 1

/-- `crc_bitwise(acc, b)` (40_checksum.md R112), the reference form that `crcStep` is compared with. -/
def crcBitwise (acc : Half) (b : Byte) : Half :=
  crcBit (crcBit (crcBit (crcBit (crcBit (crcBit (crcBit (crcBit (acc ^^^ b.setWidth 16))))))))

/-- `crc(init, b_1..b_n)` (40_checksum.md R113): no final XOR and no bit reversal. -/
def crc (init : Half) (bytes : List Byte) : Half := bytes.foldl crcStep init

/-- CRCAPP with an optional seed (40_checksum.md R117): the seed stands in the buffer only inside this operation
(10_state.md R37). The starting `ACC` is not read. -/
def State.crcAppend (seed : Option Byte) (s : State) : State :=
  let n := s.payloadLen
  let a := crc Config.crcInit s.coveredBytes
  match seed with
  | none   => ((s.writeByte (6 + n) (loByte a)).writeByte (7 + n) (hiByte a)).setAcc a
  | some b =>
    let s1 := s.writeByte (6 + n) b
    let a1 := crcStep a (s1.readByte (6 + n))
    ((s1.writeByte (6 + n) (loByte a1)).writeByte (7 + n) (hiByte a1)).setAcc a1

/-- CRCINIT (40_checksum.md R115). -/
def execCrcInit (s : State) : Host.Outcome State Fault Refusal := .next (s.setAcc Config.crcInit)

/-- CRCBYTE b (40_checksum.md R116). -/
def execCrcByte (b : Byte) (s : State) : Host.Outcome State Fault Refusal := .next (s.setAcc (crcStep s.acc b))

/-- CRCAPP (40_checksum.md R117), no seed. -/
def execCrcApp (s : State) : Host.Outcome State Fault Refusal := .next (s.crcAppend none)

/-- CRCAPP.S seed (40_checksum.md R117, R119). -/
def execCrcAppS (seed : Byte) (s : State) : Host.Outcome State Fault Refusal := .next (s.crcAppend (some seed))

end Sys2Proof.Machine
end

