-- ==== Sys2Proof/Machine/Encoder.lean ====
section
/-! DEFINITION. The field layout encoder (41_encoder.md): the two layouts and the meaning of ENCODE. -/

namespace Sys2Proof.Machine

/-- The five single-byte fields, in the order both layouts give them (41_encoder.md R140, decision D14). -/
def statBytes (e : Ports) : List Byte := [e.txbuf, noiseOf e, rssiOf e, remrssiOf e, remnoiseOf e]

/-- The two counters in natural order (41_encoder.md R143, R146). -/
def counterBytes (e : Ports) : List Byte := naturalOrder e.rxErrors ++ naturalOrder e.corrected

/-- The nine field bytes `P` of the sample's version (41_encoder.md R149): v1.0 counters first (R144), v0.9 counters
last and still in natural order (R145), packed without a gap (R148). -/
def fieldBytes (e : Ports) : List Byte :=
  if isV10 e then counterBytes e ++ statBytes e else statBytes e ++ counterBytes e

/-- The `PAYLOAD_LEN` payload bytes: the fields, then the zero pad (41_encoder.md R147). -/
def payloadBytes (e : Ports) : List Byte :=
  fieldBytes e ++ List.replicate (Config.payloadLen - (fieldBytes e).length) 0

/-- ENCODE on the sample `e` (41_encoder.md R149). -/
def State.encodePayload (e : Ports) (s : State) : State := s.writeBytes Config.hdrLen (payloadBytes e)

/-- ENCODE (41_encoder.md R149). -/
def execEncode (s : State) : Host.Outcome State Fault Refusal := .next (s.encodePayload s.sample)

end Sys2Proof.Machine
end

