-- ==== Sys2Proof/Machine/Composer.lean ====
section
/-! DEFINITION. The report composer (43_composer.md): the header, the composition, the flow-control gate with the transport
write, and the meanings of HDR and REPORT. -/

namespace Sys2Proof.Machine

/-- The header bytes of a frame with sequence byte `n` (43_composer.md R190). -/
def headerBytes (e : Ports) (n : Byte) : List Byte :=
  [if isV10 e then Config.stxV10 else Config.stxV09, BitVec.ofNat 8 Config.payloadLen, n,
    Config.sysId, Config.compId, Config.msgId]

/-- HDR on the sample `e` (43_composer.md R192): the current `SEQ` goes into the header, then it advances and wraps (R191). -/
def State.header (e : Ports) (s : State) : State :=
  (s.writeBytes 0 (headerBytes e s.seq)).setSeq (s.seq + 1)

/-- The seed operand of REPORT's checksum (43_composer.md R193, step 4). -/
def reportSeed (e : Ports) : Option Byte := if isV10 e then some Config.crcSeedV10 else none

/-- Steps 1 to 4 of REPORT (43_composer.md R193): the frame is composed in `PBUF[0..19]`. -/
def State.compose (e : Ports) (s : State) : State :=
  (((s.header e).encodePayload e).fixEndianness e).crcAppend (reportSeed e)

/-- Steps 5 and 6 of REPORT (43_composer.md R193): drop (R195), or hand frame bytes 0..19 to the transport (R196). -/
def State.flush (e : Ports) (s : State) : State :=
  if txFits e then (s.txWrite (s.readBytes 0 Config.frameLen)).setLast lastSent
  else s.setLast lastDropped

/-- HDR (43_composer.md R192). -/
def execHdr (s : State) : Host.Outcome State Fault Refusal := .next (s.header s.sample)

/-- REPORT (43_composer.md R193): every unit reads the one sample taken at its start (10_state.md R25). -/
def execReport (s : State) : Host.Outcome State Fault Refusal :=
  .next ((s.compose s.sample).flush s.sample)

end Sys2Proof.Machine
end

