-- ==== Sys2Proof/Machine/Dispatch.lean ====
section
/-! DEFINITION. One arm per command (30_encoding.md R83, R91): the meaning of each. -/

namespace Sys2Proof.Machine

def exec (i : Instr) (s : State) : Host.Outcome State Fault Refusal :=
  match i with
  | .crcInit => Sys2Proof.Machine.execCrcInit s
  | .crcByte b => Sys2Proof.Machine.execCrcByte b s
  | .crcApp => Sys2Proof.Machine.execCrcApp s
  | .crcAppS seed => Sys2Proof.Machine.execCrcAppS seed s
  | .fixEnd => Sys2Proof.Machine.execFixEnd s
  | .hdr => Sys2Proof.Machine.execHdr s
  | .encode => Sys2Proof.Machine.execEncode s
  | .report => Sys2Proof.Machine.execReport s

end Sys2Proof.Machine
end

