-- ==== Sys2Proof/Machine/Bus.lean ====
section
/-! DEFINITION. The host bus (20_memory.md): what a `CMD` write does (30_encoding.md R91), what each mapped word reads and
writes, the two access primitives, and what each input of the block does. -/

namespace Sys2Proof.Machine

/-- `execute_command(w)` (30_encoding.md R91): an illegal word raises ERR_CMD and does nothing else (R85). -/
def executeCommand (w : Word) (s : State) : Host.Outcome State Fault Refusal :=
  match decode w with
  | .ok i    => exec i s
  | .error _ => .next (s.raise .errCmd)

/-- What a mapped word reads as (20_memory.md R53). -/
def readTarget (t : Target) (s : State) : Word :=
  match t with
  | .cmd    => 0
  | .status => s.statusWord
  | .acc    => s.acc.setWidth 32
  | .seq    => s.seq.setWidth 32
  | .pbuf i => (s.readByte i).setWidth 32

/-- What writing a mapped word does (20_memory.md R54): writes to read-only registers are ignored. -/
def writeTarget (t : Target) (wdata : Word) (s : State) : Host.Outcome State Fault Refusal :=
  match t with
  | .cmd    => executeCommand wdata s
  | .status => .next s
  | .acc    => .next s
  | .seq    => .next s
  | .pbuf i => .next (s.writeByte i (wdata.extractLsb' 0 8))

/-- `MemRead` and `MemWrite` (20_memory.md R53, R54): the three checks, then the access. A failed access raises ERR_BUS,
and a failed read returns 0 (60_exceptions.md R232). -/
def busAccess (a : BusAccess) (s : State) : Host.Outcome State Fault Refusal :=
  match a.kind, decodeAccess a with
  | .read, .ok t           => .next (s.respond (readTarget t s))
  | .read, .error _        => .next ((s.raise .errBus).respond 0)
  | .write wdata, .ok t    => writeTarget t wdata s
  | .write _, .error _     => .next (s.raise .errBus)

/-- What an input of the block does (10_state.md R20, 70_reset_and_hazards.md R260). -/
def accept (i : Input) (s : State) : Host.Outcome State Fault Refusal :=
  match i with
  | .access a => busAccess a s
  | .ports p  => .next (s.drivePorts p)
  | .reset    => .next s.resetBlock

/-- The bus access that runs command word `w`: an aligned 4-byte write to `CMD` (10_state.md R34, 30_encoding.md R80). -/
def cmdWrite (w : Word) : BusAccess := { kind := .write w, offset := 0x000, size := .four }

end Sys2Proof.Machine
end

