-- ==== Sys2Proof/Machine/Step.lean ====
section
/-! DEFINITION. One step of the block: the next thing that reaches it from outside, taken whole (00_scope.md R8). -/

namespace Sys2Proof.Machine

/-- One step. The oldest waiting input leaves the list and is performed; with none waiting the block holds its state and
does nothing (60_exceptions.md R246, 70_reset_and_hazards.md R262). -/
def step (s : State) : Host.Outcome State Fault Refusal :=
  match s.inputs with
  | []        => .next s
  | i :: rest => accept i (s.setInputs rest)

/-- `s` with the host about to write the command word to `CMD`: the block fetches nothing, and the host's sequence of
`CMD` writes takes the place of a program (10_state.md R23; log 2). -/
def State.withFetchWord (s : State) (nbits w : Nat) : State :=
  s.setInputs (.access (cmdWrite (BitVec.ofNat 32 (w % 2 ^ nbits))) :: s.inputs)

end Sys2Proof.Machine
end

