-- ==== Sys2Proof/Machine/Assembler.lean ====
section
/-! DEFINITION. The assembler of 30_encoding.md R88 and R89: the bus access that each line stands for, and how the text of a
line is read. No step of the block uses it; it turns a written program into the accesses that the host issues. -/

namespace Sys2Proof.Machine

/-- Why a line is an assembly error (30_encoding.md R88; log 11). -/
inductive AsmError
  /-- The text is no line of R88 or R89. -/
  | form
  /-- An operand is missing, or given to a command that takes none. -/
  | operandCount
  /-- A command's operand is outside 0..255 (R88). -/
  | operandRange
  /-- An offset or a value does not fit the access record of 20_memory.md R51. -/
  | accessRange
deriving DecidableEq, Repr

/-- The command that a mnemonic stands for, given its operand byte. -/
def commandOf (m : Mnemonic) (b : Byte) : Instr :=
  match m with
  | .crcInit => .crcInit
  | .crcByte => .crcByte b
  | .crcApp  => .crcApp
  | .crcAppS => .crcAppS b
  | .fixEnd  => .fixEnd
  | .hdr     => .hdr
  | .encode  => .encode
  | .report  => .report

/-- A command line (30_encoding.md R88). -/
def assembleCommand (m : Mnemonic) (operand : Option Nat) : Except AsmError Instr :=
  match m.takesByte, operand with
  | true, some n  => if n ≤ 255 then .ok (commandOf m (BitVec.ofNat 8 n)) else .error .operandRange
  | false, none   => .ok (commandOf m 0)
  | true, none    => .error .operandCount
  | false, some _ => .error .operandCount

/-- `WR off, val`: `MemWrite(off, 4, val)` (30_encoding.md R89). -/
def assembleWr (off val : Nat) : Except AsmError BusAccess :=
  if off < 4096 ∧ val < 4294967296 then
    .ok { kind := .write (BitVec.ofNat 32 val), offset := BitVec.ofNat 12 off, size := .four }
  else .error .accessRange

/-- `RD off`: `MemRead(off, 4)` (30_encoding.md R89). -/
def assembleRd (off : Nat) : Except AsmError BusAccess :=
  if off < 4096 then .ok { kind := .read, offset := BitVec.ofNat 12 off, size := .four } else .error .accessRange

/-- A test's expected value (30_encoding.md R89) is a word of read data; it is no part of the access. -/
def expectedFits (expected : Option Nat) : Bool :=
  match expected with
  | none   => true
  | some e => decide (e < 4294967296)

/-- The bus access of a line: the machine forms, and the pseudo-instructions' expansions (30_encoding.md R89). -/
def assemble : Line → Except AsmError BusAccess
  | .command m operand => (assembleCommand m operand).map (fun i => cmdWrite (encode i))
  | .wr off val        => assembleWr off val
  | .rd off expected   => if expectedFits expected then assembleRd off else .error .accessRange
  | .wrbuf i b         => assembleWr (0x400 + 4 * i) b
  | .rdbuf i           => assembleRd (0x400 + 4 * i)
  | .rdacc             => assembleRd 0x008
  | .rdseq             => assembleRd 0x00C
  | .rdstat            => assembleRd 0x004

/-! ### The text of a line -/

/-- A piece of a line's text. -/
inductive Token
  | word (cs : List Char)
  | quoted (c : Char)
  | comma
deriving DecidableEq, Repr

/-- The word read so far, if any, as a token before the rest. -/
def closeWord (cs : List Char) (rest : List Token) : List Token :=
  if cs.isEmpty then rest else .word cs :: rest

/-- The tokens of a line: words, quoted characters and commas, up to a comment (30_encoding.md R88: `--` to the line's
end). `cs` is the word being read. -/
def tokens (cs : List Char) : List Char → List Token
  | [] => closeWord cs []
  | '-' :: '-' :: _ => closeWord cs []
  | '\'' :: c :: '\'' :: rest => closeWord cs (.quoted c :: tokens [] rest)
  | c :: rest =>
    if c = ' ' ∨ c = '\t' then closeWord cs (tokens [] rest)
    else if c = ',' then closeWord cs (.comma :: tokens [] rest)
    else tokens (cs ++ [c]) rest

/-- A digit of base 10 or 16. -/
def digitOf (base : Nat) (c : Char) : Option Nat :=
  let n := c.toNat
  let d :=
    if 48 ≤ n ∧ n ≤ 57 then n - 48
    else if 65 ≤ n ∧ n ≤ 70 then n - 55
    else if 97 ≤ n ∧ n ≤ 102 then n - 87
    else base
  if d < base then some d else none

/-- A number's digits, the most significant first. -/
def digitsOf (base : Nat) : Nat → List Char → Option Nat
  | n, [] => some n
  | n, c :: cs =>
    match digitOf base c with
    | some d => digitsOf base (base * n + d) cs
    | none   => none

/-- A number as 30_encoding.md R88 writes it: decimal, hex with a `0x` prefix, or a quoted character's ASCII code. -/
def numberOf : Token → Option Nat
  | .comma => none
  | .quoted c => if c.toNat < 128 then some c.toNat else none
  | .word ('0' :: 'x' :: c :: cs) => digitsOf 16 0 (c :: cs)
  | .word (c :: cs) => digitsOf 10 0 (c :: cs)
  | .word [] => none

/-- The mnemonics of 30_encoding.md R83 as they are written. -/
def mnemonicNames : List (List Char × Mnemonic) :=
  [ ("CRCINIT".toList, .crcInit), ("CRCBYTE".toList, .crcByte), ("CRCAPP".toList, .crcApp),
    ("CRCAPP.S".toList, .crcAppS), ("FIXEND".toList, .fixEnd), ("HDR".toList, .hdr),
    ("ENCODE".toList, .encode), ("REPORT".toList, .report) ]

/-- A line that is one word: a command without operand, or a pseudo-instruction without operand. -/
def lineOfWord (w : List Char) : Option Line :=
  if w = "RDACC".toList then some .rdacc
  else if w = "RDSEQ".toList then some .rdseq
  else if w = "RDSTAT".toList then some .rdstat
  else (mnemonicNames.lookup w).map (fun m => .command m none)

/-- A line of a word and one number. -/
def lineOfNumber (w : List Char) (n : Nat) : Option Line :=
  if w = "RD".toList then some (.rd n none)
  else if w = "RDBUF".toList then some (.rdbuf n)
  else (mnemonicNames.lookup w).map (fun m => .command m (some n))

/-- A line of a word and two numbers with a comma between them. -/
def lineOfPair (w : List Char) (m n : Nat) : Option Line :=
  if w = "WR".toList then some (.wr m n)
  else if w = "WRBUF".toList then some (.wrbuf m n)
  else none

/-- A `RD` line with a test's expected value. -/
def lineOfExpected (w arrow : List Char) (m n : Nat) : Option Line :=
  if w = "RD".toList ∧ arrow = "=>".toList then some (.rd m (some n)) else none

/-- The line that the tokens spell (30_encoding.md R88, R89). -/
def lineOfTokens : List Token → Option Line
  | [.word w] => lineOfWord w
  | [.word w, x] => (numberOf x).bind (lineOfNumber w)
  | [.word w, x, .comma, y] => (numberOf x).bind (fun m => (numberOf y).bind (lineOfPair w m))
  | [.word w, x, .word a, y] => (numberOf x).bind (fun m => (numberOf y).bind (lineOfExpected w a m))
  | _ => none

/-- The access that one line of text stands for: `none` for a line that holds nothing but space and a comment. -/
def assembleText (text : List Char) : Except AsmError (Option BusAccess) :=
  match tokens [] text with
  | [] => .ok none
  | t :: ts =>
    match lineOfTokens (t :: ts) with
    | none      => .error .form
    | some line => (assemble line).map some

/-- The accesses of a whole program, in order, or the first line's error (30_encoding.md R89). -/
def assembleProgram : List (List Char) → Except AsmError (List BusAccess)
  | [] => .ok []
  | text :: rest =>
    match assembleText text, assembleProgram rest with
    | .error e, _             => .error e
    | .ok _, .error e         => .error e
    | .ok none, .ok as        => .ok as
    | .ok (some a), .ok as    => .ok (a :: as)

end Sys2Proof.Machine
end

