-- ==== Sys2Proof/Safety.lean ====
section
/-! DEFINITION. The terms that claims about the block use: the invariant, what a step leaves unchanged, a sequence of
commands, and the frame that a REPORT composes, written from the spec's tables and not from the state operations. -/

namespace Sys2Proof.Machine

/-- The invariant of the block: the packet buffer's list is in canonical form, all of it inside `PBUF` (10_state.md R27,
20_memory.md R68), and `STATUS.LAST` is not 0b11, which "is never produced" (10_state.md R31). -/
abbrev State.Inv (s : State) : Prop := Memory.wf s.pbuf = true ∧ s.last ≠ 0b11

/-- A run is clean while neither error bit is set (60_exceptions.md R231, R232). -/
abbrev State.clean (s : State) : Prop := s.errCmd = false ∧ s.errBus = false

/-- Every buffer byte whose index is not `written` reads in `t` as in `s`. -/
def State.bytesKept (s t : State) (written : Nat → Prop) : Prop :=
  ∀ i, ¬ written i → t.readByte i = s.readByte i

/-- `STATUS` is unchanged. -/
def State.statusKept (s t : State) : Prop := t.last = s.last ∧ t.errCmd = s.errCmd ∧ t.errBus = s.errBus

/-- What stands at the ports, what was emitted and read, what waits, and the reset draw are unchanged. -/
def State.outsideKept (s t : State) : Prop :=
  t.ports = s.ports ∧ t.inputs = s.inputs ∧ t.output = s.output ∧ t.readData = s.readData ∧ t.resetDraw = s.resetDraw

/-- Commands run one after the other. -/
def execAll : List Instr → State → Host.Outcome State Fault Refusal
  | [], s => .next s
  | i :: is, s =>
    match exec i s with
    | .next t    => execAll is t
    | .fault r   => .fault r
    | .refused r => .refused r

/-- The value of a statistics array in the other node's slot (41_encoder.md R141): slot 1 for node 0, slot 0 for node 1. -/
def otherSlot (e : Ports) (a : Slots) : Byte := if e.nodeId = 0 then a.slot1 else a.slot0

/-- Frame bytes 0..5 of a frame with sequence byte `n` (43_composer.md R190). -/
def wireHeader (e : Ports) (n : Byte) : List Byte :=
  [if e.version = 1 then 0xFE else 0x55, 12, n, 0x33, 0x44, 0xA6]

/-- Frame bytes 6..17 as they are sent: 41_encoder.md R144 for v1.0, the last column of R145 for v0.9. -/
def wirePayload (e : Ports) : List Byte :=
  let lo (v : Half) : Byte := v.extractLsb' 0 8
  let hi (v : Half) : Byte := v.extractLsb' 8 8
  let stats : List Byte :=
    [e.txbuf, otherSlot e e.locNoise, otherSlot e e.locRssi, otherSlot e e.remRssi, otherSlot e e.remNoise]
  if e.version = 1 then
    [lo e.rxErrors, hi e.rxErrors, lo e.corrected, hi e.corrected] ++ stats ++ [0, 0, 0]
  else
    stats ++ [hi e.rxErrors, lo e.rxErrors, hi e.corrected, lo e.corrected] ++ [0, 0, 0]

/-- The checksum of a frame (43_composer.md R200): `crc(0xFFFF, frame[1..17] ++ seed)`. -/
def wireChecksum (e : Ports) (n : Byte) : Half :=
  crc 0xFFFF ((wireHeader e n).drop 1 ++ wirePayload e ++ (if e.version = 1 then [0x15] else []))

/-- The frame of a REPORT on sample `e` with sequence byte `n` (43_composer.md R200). -/
def wireFrame (e : Ports) (n : Byte) : List Byte :=
  wireHeader e n ++ wirePayload e ++
    [(wireChecksum e n).extractLsb' 0 8, (wireChecksum e n).extractLsb' 8 8]

end Sys2Proof.Machine
end

