-- ==== Sys2Proof/Certificates/Slice0/Obligations.lean ====
section
/-! DEFINITION. The statements for the provers, from the spec's numbered rules. -/

open Sys2Proof Sys2Proof.Machine

/-! ### Reset, idling, the environment -/

/-- 10_state.md R28 to R30, 70_reset_and_hazards.md R261: the registers after reset, and nothing emitted. -/
def Obligations.ResetRegistersHoldTheirValues : Prop :=
  State.reset.seq = 0x00 ∧ State.reset.acc = 0xFFFF ∧ State.reset.last = 0b00 ∧ State.reset.errCmd = false ∧
  State.reset.errBus = false ∧ State.reset.output = [] ∧ State.reset.statusWord = 0

/-- The invariant holds after reset (10_state.md R27, R31). -/
def Obligations.ResetMeetsTheInvariant : Prop := State.reset.Inv

/-- 70_reset_and_hazards.md R260, R261: asserting the reset input in any state. That `PBUF`'s bytes are then a new free
value of the model is log 3 and log 10; that the records stay is log 9. -/
def Obligations.ResetInputResetsEveryElement : Prop :=
  ∀ (s : State) (rest : List Input), s.inputs = .reset :: rest →
    ∃ t, step s = .next t ∧
      t.seq = 0x00 ∧ t.acc = 0xFFFF ∧ t.last = 0b00 ∧ t.errCmd = false ∧ t.errBus = false ∧
      t.resetDraw = s.resetDraw + 1 ∧ (∀ i, i < 263 → t.readByte i = Config.pbufReset t.resetDraw i) ∧
      t.output = s.output ∧ t.readData = s.readData ∧ t.ports = s.ports ∧ t.inputs = rest

/-- 60_exceptions.md R246, 70_reset_and_hazards.md R262: with no access waiting the block does nothing. -/
def Obligations.IdleBlockHoldsItsState : Prop :=
  ∀ s : State, s.inputs = [] → step s = .next s

/-- 10_state.md R20, R24: the environment has no step that changes block state. -/
def Obligations.PortChangeTouchesNoBlockState : Prop :=
  ∀ (s : State) (p : Ports) (rest : List Input), s.inputs = .ports p :: rest →
    step s = .next { s with ports := p, inputs := rest }

/-! ### Decoding and the step -/

/-- 20_memory.md R54, 30_encoding.md R91: an aligned 4-byte write to `CMD` of a word that decodes runs the command, at the
state with that access taken from the host's list. -/
def Obligations.StepRunsTheDecodedCommand : Prop :=
  ∀ (s : State) (w : Word) (i : Instr) (rest : List Input),
    s.inputs = .access { kind := .write w, offset := 0x000, size := .four } :: rest → decode w = .ok i →
    step s = exec i { s with inputs := rest }

/-- A few of the words of 30_encoding.md R83 and 95_test_vectors.md V-DEC, written out. -/
def Obligations.SampleWordsDecode : Prop :=
  decode 0x01000000 = .ok .crcInit ∧ decode 0x02000031 = .ok (.crcByte 0x31) ∧ decode 0x03000000 = .ok .crcApp ∧
  decode 0x03010015 = .ok (.crcAppS 0x15) ∧ decode 0x04000000 = .ok .fixEnd ∧ decode 0x05000000 = .ok .hdr ∧
  decode 0x06000000 = .ok .encode ∧ decode 0x07000000 = .ok .report ∧ decode 0x03000015 = .error .operand

/-- 30_encoding.md R83: every command's word decodes to that command, with every operand byte. -/
def Obligations.EncodedCommandsDecodeBack : Prop := ∀ i : Instr, decode (encode i) = .ok i

/-- 30_encoding.md R83, R86: a word is legal only as the one word of its command. -/
def Obligations.LegalWordsAreTheEncodings : Prop :=
  ∀ (w : Word) (i : Instr), decode w = .ok i → w = encode i

/-- 30_encoding.md R91, last sentence: the decoder and the opcode table read every word alike, so that no word has two
rows and a word of no row is illegal. -/
def Obligations.OpcodeTableAgreesWithTheDecoder : Prop :=
  ∀ (w : Word) (m : Mnemonic),
    (∃ i, decode w = .ok i ∧ i.mnemonic = m) ↔ ∃ r ∈ opcodeRows, r.mnemonic = m ∧ r.covers w = true

/-- 30_encoding.md R84, R85: exactly the words with an unknown opcode, a nonzero reserved field or a nonzero unused operand
field are illegal, and writing one to `CMD` sets ERR_CMD and changes nothing else. -/
def Obligations.IllegalWordsRaiseErrCmdAndNothingElse : Prop :=
  ∀ (s : State) (w : Word) (rest : List Input),
    s.inputs = .access { kind := .write w, offset := 0x000, size := .four } :: rest →
    let opc : BitVec 8 := w.extractLsb' 24 8
    let rsv1 : BitVec 7 := w.extractLsb' 17 7
    let sf : BitVec 1 := w.extractLsb' 16 1
    let rsv0 : BitVec 8 := w.extractLsb' 8 8
    let imm8 : BitVec 8 := w.extractLsb' 0 8
    let illegal : Prop :=
      opc = 0x00 ∨ 0x08 ≤ opc.toNat ∨ rsv1 ≠ 0 ∨ rsv0 ≠ 0 ∨
      ((opc = 0x01 ∨ opc = 0x04 ∨ opc = 0x05 ∨ opc = 0x06 ∨ opc = 0x07) ∧ (sf ≠ 0 ∨ imm8 ≠ 0)) ∨
      (opc = 0x02 ∧ sf ≠ 0) ∨ (opc = 0x03 ∧ sf = 0 ∧ imm8 ≠ 0)
    (illegal → step s = .next { s with errCmd := true, inputs := rest }) ∧
    (¬ illegal → ∃ i, decode w = .ok i)

/-! ### The host bus -/

/-- 20_memory.md R53: what `MemRead` returns at each offset, that it changes nothing else, and that a failed read sets
ERR_BUS and returns 0. -/
def Obligations.BusReadReturnsTheMappedWord : Prop :=
  ∀ (s : State) (off : Offset) (sz : AccessSize) (rest : List Input),
    s.inputs = .access { kind := .read, offset := off, size := sz } :: rest →
    let returns (v : Word) : Prop := step s = .next { s with inputs := rest, readData := s.readData ++ [v] }
    let n := off.toNat
    (sz = .four → n = 0x000 → returns 0) ∧
    (sz = .four → n = 0x004 →
      returns ((BitVec.ofBool s.errBus ++ BitVec.ofBool s.errCmd ++ s.last : BitVec 4).setWidth 32)) ∧
    (sz = .four → n = 0x008 → returns (s.acc.setWidth 32)) ∧
    (sz = .four → n = 0x00C → returns (s.seq.setWidth 32)) ∧
    (∀ i, i ≤ 262 → sz = .four → n = 0x400 + 4 * i → returns ((s.readByte i).setWidth 32)) ∧
    (sz ≠ .four ∨ n % 4 ≠ 0 ∨ (0x010 ≤ n ∧ n ≤ 0x3FC) ∨ (0x81C ≤ n ∧ n ≤ 0xFFC) →
      step s = .next { s with inputs := rest, errBus := true, readData := s.readData ++ [0] })

/-- 20_memory.md R54: what `MemWrite` does at each offset, and that a failed write sets ERR_BUS, stores nothing and runs no
command. -/
def Obligations.BusWriteActsOnItsTargetAlone : Prop :=
  ∀ (s : State) (w : Word) (off : Offset) (sz : AccessSize) (rest : List Input),
    s.inputs = .access { kind := .write w, offset := off, size := sz } :: rest →
    let n := off.toNat
    (sz = .four → n = 0x000 → step s = executeCommand w { s with inputs := rest }) ∧
    (sz = .four → n = 0x004 ∨ n = 0x008 ∨ n = 0x00C → step s = .next { s with inputs := rest }) ∧
    (∀ i, i ≤ 262 → sz = .four → n = 0x400 + 4 * i →
      ∃ t, step s = .next t ∧ t.readByte i = w.extractLsb' 0 8 ∧ s.bytesKept t (fun j => j = i) ∧
        t.acc = s.acc ∧ t.seq = s.seq ∧ s.statusKept t ∧ t.inputs = rest ∧ t.ports = s.ports ∧
        t.output = s.output ∧ t.readData = s.readData ∧ t.resetDraw = s.resetDraw) ∧
    (sz ≠ .four ∨ n % 4 ≠ 0 ∨ (0x010 ≤ n ∧ n ≤ 0x3FC) ∨ (0x81C ≤ n ∧ n ≤ 0xFFC) →
      step s = .next { s with inputs := rest, errBus := true })

/-- 20_memory.md R59: a byte written through its window word reads back, its other 24 bits as 0. -/
def Obligations.WindowWriteReadsBack : Prop :=
  ∀ (s : State) (w : Word) (off : Offset) (i : Nat) (rest : List Input), i ≤ 262 → off.toNat = 0x400 + 4 * i →
    s.inputs = .access { kind := .write w, offset := off, size := .four } ::
      .access { kind := .read, offset := off, size := .four } :: rest →
    ∃ t u, step s = .next t ∧ step t = .next u ∧ u.readData = s.readData ++ [(w.extractLsb' 0 8).setWidth 32]

/-- 20_memory.md R58: two reads with no step between them return the same value. -/
def Obligations.ReadsAreIdempotent : Prop :=
  ∀ (s : State) (off : Offset) (sz : AccessSize) (rest : List Input),
    s.inputs = .access { kind := .read, offset := off, size := sz } ::
      .access { kind := .read, offset := off, size := sz } :: rest →
    (sz = .four ∧ off.toNat % 4 = 0 ∧ (off.toNat < 0x010 ∨ 0x400 ≤ off.toNat ∧ off.toNat ≤ 0x818)) →
    ∃ v t, step s = .next t ∧ step t = .next { s with inputs := rest, readData := s.readData ++ [v, v] }

/-! ### Errors and whole-machine rules -/

/-- 60_exceptions.md R239, R273: every step ends, in a next state; nothing traps and nothing blocks. -/
def Obligations.EveryStepCompletes : Prop := ∀ s : State, ∃ t, step s = .next t

/-- 10_state.md R27, R31, 20_memory.md R68: the invariant, from every state that meets it. -/
def Obligations.EveryStepKeepsTheInvariant : Prop :=
  ∀ s t : State, s.Inv → step s = .next t → t.Inv

/-- 60_exceptions.md R237: only the reset input clears an error bit. -/
def Obligations.ErrorBitsStayUntilReset : Prop :=
  ∀ s t : State, step s = .next t → (∀ rest, s.inputs ≠ .reset :: rest) →
    (s.errCmd = true → t.errCmd = true) ∧ (s.errBus = true → t.errBus = true)

/-- 60_exceptions.md R236: one access raises at most one error. -/
def Obligations.OneAccessRaisesAtMostOneError : Prop :=
  ∀ s t : State, step s = .next t → s.clean → ¬ (t.errCmd = true ∧ t.errBus = true)

/-- 60_exceptions.md R233: raising an error sets the `STATUS` bit whose number is its cause code plus 1, and no other; there
are no other errors and no other codes. -/
def Obligations.CauseCodesNameTheStatusBits : Prop :=
  Fault.causeCode .errCmd = 1 ∧ Fault.causeCode .errBus = 2 ∧
  (∀ e : Fault, (e = .errCmd ∨ e = .errBus) ∧ (e.causeCode = 1 ∨ e.causeCode = 2)) ∧
  ∀ (e : Fault) (s : State), (s.raise e).statusWord = s.statusWord ||| (1 <<< (e.causeCode + 1) : Word)

/-- 10_state.md R30: the layout of the `STATUS` word, its reserved bits 0. -/
def Obligations.StatusWordHasItsLayout : Prop :=
  ∀ s : State, s.statusWord.extractLsb' 0 2 = s.last ∧ s.statusWord.getLsbD 2 = s.errCmd ∧
    s.statusWord.getLsbD 3 = s.errBus ∧ s.statusWord.extractLsb' 4 28 = 0

/-- 43_composer.md R198: only REPORT writes `STATUS.LAST`, 0b01 when it sends and 0b10 when it drops. -/
def Obligations.OnlyReportWritesLast : Prop :=
  ∀ s t : State, step s = .next t → (∀ rest, s.inputs ≠ .reset :: rest) → t.last ≠ s.last →
    (∃ rest, s.inputs = .access { kind := .write 0x07000000, offset := 0x000, size := .four } :: rest) ∧
    t.last = if s.ports.txSpace.toNat < 20 then 0b10 else 0b01

/-- 10_state.md R28, 70_reset_and_hazards.md R263: after reset only HDR and REPORT change `SEQ`, each by one. -/
def Obligations.OnlyHeadersAdvanceSeq : Prop :=
  ∀ s t : State, step s = .next t → (∀ rest, s.inputs ≠ .reset :: rest) → t.seq ≠ s.seq →
    t.seq = s.seq + 1 ∧
    ∃ w rest, (w = 0x05000000 ∨ w = 0x07000000) ∧
      s.inputs = .access { kind := .write w, offset := 0x000, size := .four } :: rest

/-- 10_state.md R29: only CRCINIT, CRCBYTE, CRCAPP and REPORT write `ACC`. -/
def Obligations.OnlyChecksumCommandsWriteAcc : Prop :=
  ∀ s t : State, step s = .next t → (∀ rest, s.inputs ≠ .reset :: rest) → t.acc ≠ s.acc →
    ∃ w rest, s.inputs = .access { kind := .write w, offset := 0x000, size := .four } :: rest ∧
      (w.extractLsb' 24 8 = (0x01 : Byte) ∨ w.extractLsb' 24 8 = (0x02 : Byte) ∨
        w.extractLsb' 24 8 = (0x03 : Byte) ∨ w.extractLsb' 24 8 = (0x07 : Byte))

/-- 10_state.md R26, 43_composer.md R194, R196, R203: only a REPORT with room for a frame drives the transport, and it adds
one frame of 20 bytes at the end of the output list. -/
def Obligations.OnlyReportDrivesTheTransport : Prop :=
  ∀ s t : State, step s = .next t → t.output ≠ s.output →
    (∃ rest, s.inputs = .access { kind := .write 0x07000000, offset := 0x000, size := .four } :: rest) ∧
    20 ≤ s.ports.txSpace.toNat ∧ ∃ frame, t.output = s.output ++ [frame] ∧ frame.length = 20

/-- 10_state.md R35: no command reads `STATUS`; commands run the same whatever it holds, and REPORT alone writes `LAST`. -/
def Obligations.StatusInfluencesNoCommand : Prop :=
  ∀ (i : Instr) (s : State) (l : BitVec 2) (c b : Bool),
    ∃ t, exec i s = .next t ∧
      exec i { s with last := l, errCmd := c, errBus := b } =
        .next { t with last := if i = .report then t.last else l, errCmd := c, errBus := b }

/-- 10_state.md R24: which ports each command reads. -/
def Obligations.CommandsReadOnlyTheirPorts : Prop :=
  ∀ (i : Instr) (s : State) (p : Ports),
    (match i with
      | .crcInit | .crcByte _ | .crcApp | .crcAppS _ => True
      | .fixEnd | .hdr => p.version = s.ports.version
      | .encode => p = { s.ports with txSpace := p.txSpace }
      | .report => p = s.ports) →
    ∃ t, exec i s = .next t ∧ exec i { s with ports := p } = .next { t with ports := p }

/-! ### The checksum engine -/

/-- 40_checksum.md R115: CRCINIT sets `ACC` and nothing else. -/
def Obligations.CrcInitSetsTheAccumulator : Prop :=
  ∀ s : State, exec .crcInit s = .next { s with acc := 0xFFFF }

/-- 40_checksum.md R110, R111, R116: CRCBYTE folds its byte in by the 8-bit mixing step and changes nothing else. -/
def Obligations.CrcByteFoldsOneByte : Prop :=
  ∀ (b : Byte) (s : State),
    let t1 : Byte := b ^^^ s.acc.extractLsb' 0 8
    let t : Byte := t1 ^^^ (t1 <<< 4)
    let wide : BitVec 24 := t.setWidth 24
    exec (.crcByte b) s = .next { s with
      acc := ((s.acc.setWidth 24 >>> 8) ^^^ (wide <<< 8) ^^^ (wide <<< 3) ^^^ (wide >>> 4)).setWidth 16 }

/-- 40_checksum.md R112: the step is the bitwise reflected CRC with polynomial 0x8408. -/
def Obligations.CrcStepIsTheBitwiseCrc : Prop :=
  ∀ (acc : Half) (b : Byte), crcStep acc b = crcBitwise acc b

/-- 40_checksum.md R114: the step is linear over GF(2), and the seed is one more covered byte folded in last. -/
def Obligations.CrcStepIsLinearAndSeedComesLast : Prop :=
  (∀ (a1 a2 : Half) (b1 b2 : Byte), crcStep (a1 ^^^ a2) (b1 ^^^ b2) = crcStep a1 b1 ^^^ crcStep a2 b2) ∧
  crcStep 0x0000 0x00 = 0x0000 ∧
  (∀ (covered : List Byte) (seed : Byte), crc 0xFFFF (covered ++ [seed]) = crcStep (crc 0xFFFF covered) seed)

/-- 40_checksum.md R117 to R120: CRCAPP, with and without a seed: the bytes covered, where the checksum goes, and that every
other byte, `SEQ`, `STATUS` and everything else stays. -/
def Obligations.CrcAppAppendsTheChecksum : Prop :=
  ∀ s : State,
    let n := (s.readByte 1).toNat
    let covered := (List.range (5 + n)).map (fun k => s.readByte (k + 1))
    let appends (i : Instr) (a : Half) : Prop :=
      ∃ t, exec i s = .next t ∧ t.acc = a ∧
        t.readByte (6 + n) = a.extractLsb' 0 8 ∧ t.readByte (7 + n) = a.extractLsb' 8 8 ∧
        s.bytesKept t (fun j => j = 6 + n ∨ j = 7 + n) ∧ t.seq = s.seq ∧ s.statusKept t ∧ s.outsideKept t
    appends .crcApp (covered.foldl crcStep 0xFFFF) ∧
    ∀ seed : Byte, appends (.crcAppS seed) (crcStep (covered.foldl crcStep 0xFFFF) seed)

/-- 40_checksum.md R121: every index that CRCAPP reads or writes is an index of `PBUF`, and the largest is its last. -/
def Obligations.CrcAppIndicesLieInTheBuffer : Prop :=
  (∀ (s : State) (k : Nat), k ≤ 7 + s.payloadLen → k < Config.pbufCap) ∧
  (∀ s : State, s.readByte 1 = 0xFF → 7 + s.payloadLen = Config.pbufCap - 1)

/-- 40_checksum.md R122: the bytes that CRCAPP writes depend on the covered bytes and the seed alone. -/
def Obligations.CrcAppDependsOnCoveredBytesAlone : Prop :=
  ∀ (i : Instr) (s s' : State), (i = .crcApp ∨ ∃ seed, i = .crcAppS seed) →
    let n := (s.readByte 1).toNat
    (∀ k, 1 ≤ k → k ≤ 5 + n → s'.readByte k = s.readByte k) →
    ∃ t t', exec i s = .next t ∧ exec i s' = .next t' ∧ t'.acc = t.acc ∧
      t'.readByte (6 + n) = t.readByte (6 + n) ∧ t'.readByte (7 + n) = t.readByte (7 + n)

/-- 40_checksum.md R123: CRCAPP leaves the `ACC` that CRCINIT and one CRCBYTE per covered byte (and one for the seed) leave,
and those commands never write the buffer. -/
def Obligations.RunningChecksumEqualsCrcApp : Prop :=
  ∀ (s : State) (seed : Byte),
    let bytes := (List.range (5 + (s.readByte 1).toNat)).map (fun k => s.readByte (k + 1))
    ∃ t t' u u', execAll (.crcInit :: bytes.map .crcByte) s = .next t ∧ exec .crcApp s = .next u ∧ t.acc = u.acc ∧
      execAll (.crcInit :: (bytes ++ [seed]).map .crcByte) s = .next t' ∧ exec (.crcAppS seed) s = .next u' ∧
      t'.acc = u'.acc ∧ t.pbuf = s.pbuf ∧ t'.pbuf = s.pbuf

/-! ### The field layout encoder and the byte-order fixup -/

/-- 41_encoder.md R141, R144, R147, R149: ENCODE for v1.0. -/
def Obligations.EncodeWritesTheV10Layout : Prop :=
  ∀ s : State, s.ports.version = 1 →
    let e := s.ports
    let stat (a : Slots) : Byte := if e.nodeId = 0 then a.slot1 else a.slot0
    ∃ t, exec .encode s = .next t ∧
      t.readByte 6 = e.rxErrors.extractLsb' 0 8 ∧ t.readByte 7 = e.rxErrors.extractLsb' 8 8 ∧
      t.readByte 8 = e.corrected.extractLsb' 0 8 ∧ t.readByte 9 = e.corrected.extractLsb' 8 8 ∧
      t.readByte 10 = e.txbuf ∧ t.readByte 11 = stat e.locNoise ∧ t.readByte 12 = stat e.locRssi ∧
      t.readByte 13 = stat e.remRssi ∧ t.readByte 14 = stat e.remNoise ∧
      t.readByte 15 = 0 ∧ t.readByte 16 = 0 ∧ t.readByte 17 = 0 ∧
      s.bytesKept t (fun j => 6 ≤ j ∧ j ≤ 17) ∧ t.acc = s.acc ∧ t.seq = s.seq ∧ s.statusKept t ∧ s.outsideKept t

/-- 41_encoder.md R141, R145, R147, R149: ENCODE for v0.9, the counters last and in natural order; and the bytes once
FIXEND has run, the counters in wire order. -/
def Obligations.EncodeWritesTheV09Layout : Prop :=
  ∀ s : State, s.ports.version = 0 →
    let e := s.ports
    let stat (a : Slots) : Byte := if e.nodeId = 0 then a.slot1 else a.slot0
    ∃ t, exec .encode s = .next t ∧
      t.readByte 6 = e.txbuf ∧ t.readByte 7 = stat e.locNoise ∧ t.readByte 8 = stat e.locRssi ∧
      t.readByte 9 = stat e.remRssi ∧ t.readByte 10 = stat e.remNoise ∧
      t.readByte 11 = e.rxErrors.extractLsb' 0 8 ∧ t.readByte 12 = e.rxErrors.extractLsb' 8 8 ∧
      t.readByte 13 = e.corrected.extractLsb' 0 8 ∧ t.readByte 14 = e.corrected.extractLsb' 8 8 ∧
      t.readByte 15 = 0 ∧ t.readByte 16 = 0 ∧ t.readByte 17 = 0 ∧
      s.bytesKept t (fun j => 6 ≤ j ∧ j ≤ 17) ∧ t.acc = s.acc ∧ t.seq = s.seq ∧ s.statusKept t ∧ s.outsideKept t ∧
      ∃ u, exec .fixEnd t = .next u ∧
        u.readByte 11 = e.rxErrors.extractLsb' 8 8 ∧ u.readByte 12 = e.rxErrors.extractLsb' 0 8 ∧
        u.readByte 13 = e.corrected.extractLsb' 8 8 ∧ u.readByte 14 = e.corrected.extractLsb' 0 8 ∧
        t.bytesKept u (fun j => 11 ≤ j ∧ j ≤ 14)

/-- 41_encoder.md R151: two samples that differ only in `node_id`, in both layouts. The four statistics bytes come from
slot 1 for node 0 and from slot 0 for node 1; the counters and `txbuf` do not depend on `node_id`. -/
def Obligations.NodeIdentityInvertsTheSlots : Prop :=
  ∀ s : State,
    let e := s.ports
    let v10 := e.version = 1
    ∃ t0 t1, exec .encode { s with ports := { e with nodeId := 0 } } = .next t0 ∧
      exec .encode { s with ports := { e with nodeId := 1 } } = .next t1 ∧
      (let first := if v10 then 11 else 7
       t0.readByte first = e.locNoise.slot1 ∧ t1.readByte first = e.locNoise.slot0 ∧
       t0.readByte (first + 1) = e.locRssi.slot1 ∧ t1.readByte (first + 1) = e.locRssi.slot0 ∧
       t0.readByte (first + 2) = e.remRssi.slot1 ∧ t1.readByte (first + 2) = e.remRssi.slot0 ∧
       t0.readByte (first + 3) = e.remNoise.slot1 ∧ t1.readByte (first + 3) = e.remNoise.slot0 ∧
       ∀ j, ¬ (first ≤ j ∧ j ≤ first + 3) → t1.readByte j = t0.readByte j)

/-- 42_byteorder.md R170, R172, R173, R175: FIXEND swaps 11/12 and 13/14 for v0.9 and nothing else, and does nothing for
v1.0. -/
def Obligations.FixEndSwapsTheLegacyCounters : Prop :=
  ∀ s : State,
    (s.ports.version = 0 → ∃ t, exec .fixEnd s = .next t ∧
      t.readByte 11 = s.readByte 12 ∧ t.readByte 12 = s.readByte 11 ∧
      t.readByte 13 = s.readByte 14 ∧ t.readByte 14 = s.readByte 13 ∧
      s.bytesKept t (fun j => 11 ≤ j ∧ j ≤ 14) ∧
      t.acc = s.acc ∧ t.seq = s.seq ∧ s.statusKept t ∧ s.outsideKept t) ∧
    (s.ports.version = 1 → exec .fixEnd s = .next s)

/-- 42_byteorder.md R174: FIXEND twice restores every byte; and a receiver that reads the counters of a v0.9 frame as high
byte first gets `rx_errors` and `corrected` back, as does one that swaps the span back. -/
def Obligations.FixEndRoundTripRestoresTheCounters : Prop :=
  (∀ s : State, ∃ t, execAll [.fixEnd, .fixEnd] s = .next t ∧ s.bytesKept t (fun _ => False) ∧
    t.acc = s.acc ∧ t.seq = s.seq ∧ s.statusKept t ∧ s.outsideKept t) ∧
  (∀ s : State, s.ports.version = 0 → ∃ t u, execAll [.encode, .fixEnd] s = .next t ∧
    t.readByte 11 ++ t.readByte 12 = s.ports.rxErrors ∧ t.readByte 13 ++ t.readByte 14 = s.ports.corrected ∧
    exec .fixEnd t = .next u ∧
    u.readByte 12 ++ u.readByte 11 = s.ports.rxErrors ∧ u.readByte 14 ++ u.readByte 13 = s.ports.corrected)

/-! ### The report composer -/

/-- 43_composer.md R190 to R192: HDR. -/
def Obligations.HdrWritesTheHeader : Prop :=
  ∀ s : State, ∃ t, exec .hdr s = .next t ∧
    t.readByte 0 = (if s.ports.version = 1 then 0xFE else 0x55) ∧ t.readByte 1 = 12 ∧ t.readByte 2 = s.seq ∧
    t.readByte 3 = 0x33 ∧ t.readByte 4 = 0x44 ∧ t.readByte 5 = 0xA6 ∧ t.seq = s.seq + 1 ∧
    s.bytesKept t (fun j => j ≤ 5) ∧ t.acc = s.acc ∧ s.statusKept t ∧ s.outsideKept t

/-- 43_composer.md R191: HDR and REPORT, sent or dropped, put the current `SEQ` at frame offset 2 and advance it by one
with 8-bit wraparound. -/
def Obligations.SequenceNumberAdvancesSentOrDropped : Prop :=
  ∀ (i : Instr) (s : State), i = .hdr ∨ i = .report →
    ∃ t, exec i s = .next t ∧ t.readByte 2 = s.seq ∧ t.seq.toNat = (s.seq.toNat + 1) % 256 ∧
      (s.seq = 0xFF → t.seq = 0x00)

/-- 43_composer.md R193, R194, R196, R200: a REPORT with room for 20 bytes emits the one frame that its sample and `SEQ`
determine, whatever the buffer and `ACC` held. -/
def Obligations.ReportSendsTheComposedFrame : Prop :=
  ∀ s : State, 20 ≤ s.ports.txSpace.toNat →
    let frame := wireFrame s.ports s.seq
    ∃ t, exec .report s = .next t ∧ t.output = s.output ++ [frame] ∧ frame.length = 20 ∧ t.last = 0b01 ∧
      (∀ j, j < 20 → t.readByte j = frame.getD j 0) ∧ s.bytesKept t (fun j => j < 20) ∧
      t.acc = wireChecksum s.ports s.seq ∧ t.seq = s.seq + 1 ∧ t.errCmd = s.errCmd ∧ t.errBus = s.errBus ∧
      t.ports = s.ports ∧ t.inputs = s.inputs ∧ t.readData = s.readData ∧ t.resetDraw = s.resetDraw

/-- 43_composer.md R194, R195: a REPORT without room emits nothing; the composed frame, its checksum and the advanced `SEQ`
stay. -/
def Obligations.ReportDropsWithoutRoom : Prop :=
  ∀ s : State, s.ports.txSpace.toNat < 20 →
    let frame := wireFrame s.ports s.seq
    ∃ t, exec .report s = .next t ∧ t.output = s.output ∧ t.last = 0b10 ∧
      (∀ j, j < 20 → t.readByte j = frame.getD j 0) ∧ s.bytesKept t (fun j => j < 20) ∧
      t.acc = wireChecksum s.ports s.seq ∧ t.seq = s.seq + 1 ∧ t.errCmd = s.errCmd ∧ t.errBus = s.errBus ∧
      t.ports = s.ports ∧ t.inputs = s.inputs ∧ t.readData = s.readData ∧ t.resetDraw = s.resetDraw

/-- 43_composer.md R199: for ports held still, HDR, ENCODE, FIXEND and CRCAPP leave `PBUF`, `SEQ` and `ACC` as REPORT does;
they emit nothing and leave `STATUS.LAST`. -/
def Obligations.ReportEqualsItsCommandSequence : Prop :=
  ∀ s : State,
    let commands : List Instr :=
      [.hdr, .encode, .fixEnd, if s.ports.version = 1 then .crcAppS 21 else .crcApp]
    ∃ t u, execAll commands s = .next t ∧ exec .report s = .next u ∧
      (∀ j, t.readByte j = u.readByte j) ∧ t.seq = u.seq ∧ t.acc = u.acc ∧
      t.output = s.output ∧ t.last = s.last

/-! ### The assembler -/

/-- 30_encoding.md R89: the expansions of the machine forms and the pseudo-instructions. -/
def Obligations.PseudoInstructionsExpand : Prop :=
  (∀ i b : Nat, i ≤ 262 → b < 256 →
    assemble (.wrbuf i b) =
      .ok { kind := .write (BitVec.ofNat 32 b), offset := BitVec.ofNat 12 (0x400 + 4 * i), size := .four } ∧
    assemble (.rdbuf i) = .ok { kind := .read, offset := BitVec.ofNat 12 (0x400 + 4 * i), size := .four }) ∧
  (∀ (off : Offset) (val : Word),
    assemble (.wr off.toNat val.toNat) = .ok { kind := .write val, offset := off, size := .four } ∧
    assemble (.rd off.toNat none) = .ok { kind := .read, offset := off, size := .four }) ∧
  assemble .rdacc = .ok { kind := .read, offset := 0x008, size := .four } ∧
  assemble .rdseq = .ok { kind := .read, offset := 0x00C, size := .four } ∧
  assemble .rdstat = .ok { kind := .read, offset := 0x004, size := .four }

/-- 30_encoding.md R88, R89: a command line assembles to the `CMD` write of its word, and an operand outside 0..255 is an
assembly error. -/
def Obligations.CommandLinesAssembleToTheirWords : Prop :=
  (∀ (m : Mnemonic) (n : Nat), m.takesByte = true → n ≤ 255 → ∃ i : Instr, i.mnemonic = m ∧
    assemble (.command m (some n)) =
      .ok { kind := .write (encode i), offset := 0x000, size := .four } ∧
    (encode i).extractLsb' 0 8 = BitVec.ofNat 8 n) ∧
  (∀ m : Mnemonic, m.takesByte = false → ∃ i : Instr, i.mnemonic = m ∧
    assemble (.command m none) = .ok { kind := .write (encode i), offset := 0x000, size := .four }) ∧
  (∀ (m : Mnemonic) (n : Nat), m.takesByte = true → 255 < n →
    assemble (.command m (some n)) = .error .operandRange)
end

