-- ==== Sys2Proof/Laws/State.lean ====
section
/-! SUPPORT. What each update of the state does to each field, one lemma per field and update, so that no proof unfolds a
record update; and the updates that leave the packet buffer's bytes alone. -/

namespace Sys2Proof.Machine

variable (s : State)

/-! ### setAcc -/

@[simp] theorem State.setAcc_pbuf (v : Half) : (s.setAcc v).pbuf = s.pbuf := rfl
@[simp] theorem State.setAcc_seq (v : Half) : (s.setAcc v).seq = s.seq := rfl
@[simp] theorem State.setAcc_acc (v : Half) : (s.setAcc v).acc = v := rfl
@[simp] theorem State.setAcc_last (v : Half) : (s.setAcc v).last = s.last := rfl
@[simp] theorem State.setAcc_errCmd (v : Half) : (s.setAcc v).errCmd = s.errCmd := rfl
@[simp] theorem State.setAcc_errBus (v : Half) : (s.setAcc v).errBus = s.errBus := rfl
@[simp] theorem State.setAcc_ports (v : Half) : (s.setAcc v).ports = s.ports := rfl
@[simp] theorem State.setAcc_inputs (v : Half) : (s.setAcc v).inputs = s.inputs := rfl
@[simp] theorem State.setAcc_output (v : Half) : (s.setAcc v).output = s.output := rfl
@[simp] theorem State.setAcc_readData (v : Half) : (s.setAcc v).readData = s.readData := rfl
@[simp] theorem State.setAcc_resetDraw (v : Half) : (s.setAcc v).resetDraw = s.resetDraw := rfl
@[simp] theorem State.setAcc_readByte (v : Half) (i : Nat) : (s.setAcc v).readByte i = s.readByte i := rfl

/-! ### setSeq -/

@[simp] theorem State.setSeq_pbuf (v : Byte) : (s.setSeq v).pbuf = s.pbuf := rfl
@[simp] theorem State.setSeq_seq (v : Byte) : (s.setSeq v).seq = v := rfl
@[simp] theorem State.setSeq_acc (v : Byte) : (s.setSeq v).acc = s.acc := rfl
@[simp] theorem State.setSeq_last (v : Byte) : (s.setSeq v).last = s.last := rfl
@[simp] theorem State.setSeq_errCmd (v : Byte) : (s.setSeq v).errCmd = s.errCmd := rfl
@[simp] theorem State.setSeq_errBus (v : Byte) : (s.setSeq v).errBus = s.errBus := rfl
@[simp] theorem State.setSeq_ports (v : Byte) : (s.setSeq v).ports = s.ports := rfl
@[simp] theorem State.setSeq_inputs (v : Byte) : (s.setSeq v).inputs = s.inputs := rfl
@[simp] theorem State.setSeq_output (v : Byte) : (s.setSeq v).output = s.output := rfl
@[simp] theorem State.setSeq_readData (v : Byte) : (s.setSeq v).readData = s.readData := rfl
@[simp] theorem State.setSeq_resetDraw (v : Byte) : (s.setSeq v).resetDraw = s.resetDraw := rfl
@[simp] theorem State.setSeq_readByte (v : Byte) (i : Nat) : (s.setSeq v).readByte i = s.readByte i := rfl

/-! ### setLast -/

@[simp] theorem State.setLast_pbuf (v : BitVec 2) : (s.setLast v).pbuf = s.pbuf := rfl
@[simp] theorem State.setLast_seq (v : BitVec 2) : (s.setLast v).seq = s.seq := rfl
@[simp] theorem State.setLast_acc (v : BitVec 2) : (s.setLast v).acc = s.acc := rfl
@[simp] theorem State.setLast_last (v : BitVec 2) : (s.setLast v).last = v := rfl
@[simp] theorem State.setLast_errCmd (v : BitVec 2) : (s.setLast v).errCmd = s.errCmd := rfl
@[simp] theorem State.setLast_errBus (v : BitVec 2) : (s.setLast v).errBus = s.errBus := rfl
@[simp] theorem State.setLast_ports (v : BitVec 2) : (s.setLast v).ports = s.ports := rfl
@[simp] theorem State.setLast_inputs (v : BitVec 2) : (s.setLast v).inputs = s.inputs := rfl
@[simp] theorem State.setLast_output (v : BitVec 2) : (s.setLast v).output = s.output := rfl
@[simp] theorem State.setLast_readData (v : BitVec 2) : (s.setLast v).readData = s.readData := rfl
@[simp] theorem State.setLast_resetDraw (v : BitVec 2) : (s.setLast v).resetDraw = s.resetDraw := rfl
@[simp] theorem State.setLast_readByte (v : BitVec 2) (i : Nat) : (s.setLast v).readByte i = s.readByte i := rfl

/-! ### txWrite -/

@[simp] theorem State.txWrite_pbuf (b : List Byte) : (s.txWrite b).pbuf = s.pbuf := rfl
@[simp] theorem State.txWrite_seq (b : List Byte) : (s.txWrite b).seq = s.seq := rfl
@[simp] theorem State.txWrite_acc (b : List Byte) : (s.txWrite b).acc = s.acc := rfl
@[simp] theorem State.txWrite_last (b : List Byte) : (s.txWrite b).last = s.last := rfl
@[simp] theorem State.txWrite_errCmd (b : List Byte) : (s.txWrite b).errCmd = s.errCmd := rfl
@[simp] theorem State.txWrite_errBus (b : List Byte) : (s.txWrite b).errBus = s.errBus := rfl
@[simp] theorem State.txWrite_ports (b : List Byte) : (s.txWrite b).ports = s.ports := rfl
@[simp] theorem State.txWrite_inputs (b : List Byte) : (s.txWrite b).inputs = s.inputs := rfl
@[simp] theorem State.txWrite_output (b : List Byte) : (s.txWrite b).output = s.output ++ [b] := rfl
@[simp] theorem State.txWrite_readData (b : List Byte) : (s.txWrite b).readData = s.readData := rfl
@[simp] theorem State.txWrite_resetDraw (b : List Byte) : (s.txWrite b).resetDraw = s.resetDraw := rfl
@[simp] theorem State.txWrite_readByte (b : List Byte) (i : Nat) : (s.txWrite b).readByte i = s.readByte i := rfl

/-! ### respond -/

@[simp] theorem State.respond_pbuf (v : Word) : (s.respond v).pbuf = s.pbuf := rfl
@[simp] theorem State.respond_seq (v : Word) : (s.respond v).seq = s.seq := rfl
@[simp] theorem State.respond_acc (v : Word) : (s.respond v).acc = s.acc := rfl
@[simp] theorem State.respond_last (v : Word) : (s.respond v).last = s.last := rfl
@[simp] theorem State.respond_errCmd (v : Word) : (s.respond v).errCmd = s.errCmd := rfl
@[simp] theorem State.respond_errBus (v : Word) : (s.respond v).errBus = s.errBus := rfl
@[simp] theorem State.respond_ports (v : Word) : (s.respond v).ports = s.ports := rfl
@[simp] theorem State.respond_inputs (v : Word) : (s.respond v).inputs = s.inputs := rfl
@[simp] theorem State.respond_output (v : Word) : (s.respond v).output = s.output := rfl
@[simp] theorem State.respond_readData (v : Word) : (s.respond v).readData = s.readData ++ [v] := rfl
@[simp] theorem State.respond_resetDraw (v : Word) : (s.respond v).resetDraw = s.resetDraw := rfl
@[simp] theorem State.respond_readByte (v : Word) (i : Nat) : (s.respond v).readByte i = s.readByte i := rfl

/-! ### raise_errCmd -/

@[simp] theorem State.raise_errCmd_pbuf : (s.raise .errCmd).pbuf = s.pbuf := rfl
@[simp] theorem State.raise_errCmd_seq : (s.raise .errCmd).seq = s.seq := rfl
@[simp] theorem State.raise_errCmd_acc : (s.raise .errCmd).acc = s.acc := rfl
@[simp] theorem State.raise_errCmd_last : (s.raise .errCmd).last = s.last := rfl
@[simp] theorem State.raise_errCmd_errCmd : (s.raise .errCmd).errCmd = true := rfl
@[simp] theorem State.raise_errCmd_errBus : (s.raise .errCmd).errBus = s.errBus := rfl
@[simp] theorem State.raise_errCmd_ports : (s.raise .errCmd).ports = s.ports := rfl
@[simp] theorem State.raise_errCmd_inputs : (s.raise .errCmd).inputs = s.inputs := rfl
@[simp] theorem State.raise_errCmd_output : (s.raise .errCmd).output = s.output := rfl
@[simp] theorem State.raise_errCmd_readData : (s.raise .errCmd).readData = s.readData := rfl
@[simp] theorem State.raise_errCmd_resetDraw : (s.raise .errCmd).resetDraw = s.resetDraw := rfl
@[simp] theorem State.raise_errCmd_readByte (i : Nat) : (s.raise .errCmd).readByte i = s.readByte i := rfl

/-! ### raise_errBus -/

@[simp] theorem State.raise_errBus_pbuf : (s.raise .errBus).pbuf = s.pbuf := rfl
@[simp] theorem State.raise_errBus_seq : (s.raise .errBus).seq = s.seq := rfl
@[simp] theorem State.raise_errBus_acc : (s.raise .errBus).acc = s.acc := rfl
@[simp] theorem State.raise_errBus_last : (s.raise .errBus).last = s.last := rfl
@[simp] theorem State.raise_errBus_errCmd : (s.raise .errBus).errCmd = s.errCmd := rfl
@[simp] theorem State.raise_errBus_errBus : (s.raise .errBus).errBus = true := rfl
@[simp] theorem State.raise_errBus_ports : (s.raise .errBus).ports = s.ports := rfl
@[simp] theorem State.raise_errBus_inputs : (s.raise .errBus).inputs = s.inputs := rfl
@[simp] theorem State.raise_errBus_output : (s.raise .errBus).output = s.output := rfl
@[simp] theorem State.raise_errBus_readData : (s.raise .errBus).readData = s.readData := rfl
@[simp] theorem State.raise_errBus_resetDraw : (s.raise .errBus).resetDraw = s.resetDraw := rfl
@[simp] theorem State.raise_errBus_readByte (i : Nat) : (s.raise .errBus).readByte i = s.readByte i := rfl

/-! ### setInputs -/

@[simp] theorem State.setInputs_pbuf (l : List Input) : (s.setInputs l).pbuf = s.pbuf := rfl
@[simp] theorem State.setInputs_seq (l : List Input) : (s.setInputs l).seq = s.seq := rfl
@[simp] theorem State.setInputs_acc (l : List Input) : (s.setInputs l).acc = s.acc := rfl
@[simp] theorem State.setInputs_last (l : List Input) : (s.setInputs l).last = s.last := rfl
@[simp] theorem State.setInputs_errCmd (l : List Input) : (s.setInputs l).errCmd = s.errCmd := rfl
@[simp] theorem State.setInputs_errBus (l : List Input) : (s.setInputs l).errBus = s.errBus := rfl
@[simp] theorem State.setInputs_ports (l : List Input) : (s.setInputs l).ports = s.ports := rfl
@[simp] theorem State.setInputs_inputs (l : List Input) : (s.setInputs l).inputs = l := rfl
@[simp] theorem State.setInputs_output (l : List Input) : (s.setInputs l).output = s.output := rfl
@[simp] theorem State.setInputs_readData (l : List Input) : (s.setInputs l).readData = s.readData := rfl
@[simp] theorem State.setInputs_resetDraw (l : List Input) : (s.setInputs l).resetDraw = s.resetDraw := rfl
@[simp] theorem State.setInputs_readByte (l : List Input) (i : Nat) : (s.setInputs l).readByte i = s.readByte i := rfl

/-! ### drivePorts -/

@[simp] theorem State.drivePorts_pbuf (p : Ports) : (s.drivePorts p).pbuf = s.pbuf := rfl
@[simp] theorem State.drivePorts_seq (p : Ports) : (s.drivePorts p).seq = s.seq := rfl
@[simp] theorem State.drivePorts_acc (p : Ports) : (s.drivePorts p).acc = s.acc := rfl
@[simp] theorem State.drivePorts_last (p : Ports) : (s.drivePorts p).last = s.last := rfl
@[simp] theorem State.drivePorts_errCmd (p : Ports) : (s.drivePorts p).errCmd = s.errCmd := rfl
@[simp] theorem State.drivePorts_errBus (p : Ports) : (s.drivePorts p).errBus = s.errBus := rfl
@[simp] theorem State.drivePorts_ports (p : Ports) : (s.drivePorts p).ports = p := rfl
@[simp] theorem State.drivePorts_inputs (p : Ports) : (s.drivePorts p).inputs = s.inputs := rfl
@[simp] theorem State.drivePorts_output (p : Ports) : (s.drivePorts p).output = s.output := rfl
@[simp] theorem State.drivePorts_readData (p : Ports) : (s.drivePorts p).readData = s.readData := rfl
@[simp] theorem State.drivePorts_resetDraw (p : Ports) : (s.drivePorts p).resetDraw = s.resetDraw := rfl
@[simp] theorem State.drivePorts_readByte (p : Ports) (i : Nat) : (s.drivePorts p).readByte i = s.readByte i := rfl

/-! ### resetBlock -/

@[simp] theorem State.resetBlock_pbuf : (s.resetBlock).pbuf = [] := rfl
@[simp] theorem State.resetBlock_seq : (s.resetBlock).seq = Config.seqReset := rfl
@[simp] theorem State.resetBlock_acc : (s.resetBlock).acc = Config.crcInit := rfl
@[simp] theorem State.resetBlock_last : (s.resetBlock).last = 0 := rfl
@[simp] theorem State.resetBlock_errCmd : (s.resetBlock).errCmd = false := rfl
@[simp] theorem State.resetBlock_errBus : (s.resetBlock).errBus = false := rfl
@[simp] theorem State.resetBlock_ports : (s.resetBlock).ports = s.ports := rfl
@[simp] theorem State.resetBlock_inputs : (s.resetBlock).inputs = s.inputs := rfl
@[simp] theorem State.resetBlock_output : (s.resetBlock).output = s.output := rfl
@[simp] theorem State.resetBlock_readData : (s.resetBlock).readData = s.readData := rfl
@[simp] theorem State.resetBlock_resetDraw : (s.resetBlock).resetDraw = s.resetDraw + 1 := rfl

@[simp] theorem State.resetBlock_readByte (i : Nat) :
    s.resetBlock.readByte i = Config.pbufReset (s.resetDraw + 1) i := rfl

@[simp] theorem State.ports_update_readByte (p : Ports) (i : Nat) :
    ({ s with ports := p } : State).readByte i = s.readByte i := rfl

@[simp] theorem State.sample_eq_ports : s.sample = s.ports := rfl

/-! ### writeByte: every field but `pbuf` -/

@[simp] theorem State.writeByte_seq (i : Nat) (v : Byte) : (s.writeByte i v).seq = s.seq := by
  unfold State.writeByte; split <;> rfl
@[simp] theorem State.writeByte_acc (i : Nat) (v : Byte) : (s.writeByte i v).acc = s.acc := by
  unfold State.writeByte; split <;> rfl
@[simp] theorem State.writeByte_last (i : Nat) (v : Byte) : (s.writeByte i v).last = s.last := by
  unfold State.writeByte; split <;> rfl
@[simp] theorem State.writeByte_errCmd (i : Nat) (v : Byte) : (s.writeByte i v).errCmd = s.errCmd := by
  unfold State.writeByte; split <;> rfl
@[simp] theorem State.writeByte_errBus (i : Nat) (v : Byte) : (s.writeByte i v).errBus = s.errBus := by
  unfold State.writeByte; split <;> rfl
@[simp] theorem State.writeByte_ports (i : Nat) (v : Byte) : (s.writeByte i v).ports = s.ports := by
  unfold State.writeByte; split <;> rfl
@[simp] theorem State.writeByte_inputs (i : Nat) (v : Byte) : (s.writeByte i v).inputs = s.inputs := by
  unfold State.writeByte; split <;> rfl
@[simp] theorem State.writeByte_output (i : Nat) (v : Byte) : (s.writeByte i v).output = s.output := by
  unfold State.writeByte; split <;> rfl
@[simp] theorem State.writeByte_readData (i : Nat) (v : Byte) : (s.writeByte i v).readData = s.readData := by
  unfold State.writeByte; split <;> rfl
@[simp] theorem State.writeByte_resetDraw (i : Nat) (v : Byte) : (s.writeByte i v).resetDraw = s.resetDraw := by
  unfold State.writeByte; split <;> rfl

end Sys2Proof.Machine
end

