-- ==== Sys2Proof/Laws/Memory.lean ====
section
/-! SUPPORT. The packet buffer: what the list operations do, that they keep the canonical form, and what reading a byte
gives after each write. -/

namespace Sys2Proof.Machine

/-! ### The list of cells -/

theorem Memory.lookup_store (m : Memory) (i j : Nat) (v : Byte) :
    Memory.lookup (Memory.store m i v) j = if j = i then some v else Memory.lookup m j := by
  induction m with
  | nil => simp [Memory.store, Memory.lookup, eq_comm]
  | cons c m ih =>
    obtain ⟨k, w⟩ := c
    simp only [Memory.store]
    split
    · simp [Memory.lookup, eq_comm]
    · split
      · subst_vars
        by_cases h : k = j
        · simp [Memory.lookup, h]
        · simp [Memory.lookup, h, Ne.symm h]
      · simp only [Memory.lookup, ih]
        by_cases h : k = j
        · subst h; simp; omega
        · simp [h]

theorem Memory.risingFrom_store (lo : Option Nat) (m : Memory) (i : Nat) (v : Byte)
    (hm : Memory.risingFrom lo m = true) (hlo : ∀ b, lo = some b → b < i) (hi : i < Config.pbufCap) :
    Memory.risingFrom lo (Memory.store m i v) = true := by
  induction m generalizing lo with
  | nil => cases lo <;> simp_all [Memory.store, Memory.risingFrom]
  | cons c m ih =>
    obtain ⟨k, w⟩ := c
    simp only [Memory.risingFrom, Bool.and_eq_true, decide_eq_true_eq] at hm
    obtain ⟨⟨hk, hcap⟩, hrest⟩ := hm
    simp only [Memory.store]
    split
    · cases lo <;> simp_all [Memory.risingFrom]
    · split
      · subst_vars; cases lo <;> simp_all [Memory.risingFrom]
      · have := ih (some k) hrest (by intro b hb; cases hb; omega)
        cases lo <;> simp_all [Memory.risingFrom]

/-- Storing a byte of `PBUF` keeps the canonical form. -/
theorem Memory.wf_store (m : Memory) (i : Nat) (v : Byte) (hm : Memory.wf m = true) (hi : i < Config.pbufCap) :
    Memory.wf (Memory.store m i v) = true :=
  Memory.risingFrom_store none m i v hm (by simp) hi

theorem Memory.wf_nil : Memory.wf [] = true := rfl

theorem Memory.wf_reset : Memory.wf State.reset.pbuf = true := rfl

/-! ### One byte -/

/-- Reading after one write: the written byte where the index is one of `PBUF`'s, every other byte as before. -/
theorem State.readByte_writeByte (s : State) (i j : Nat) (v : Byte) :
    (s.writeByte i v).readByte j = if j = i ∧ i < Config.pbufCap then v else s.readByte j := by
  unfold State.writeByte
  by_cases hi : i < Config.pbufCap
  · simp only [hi, if_true, and_true, State.readByte, Memory.lookup_store]
    by_cases h : j = i <;> simp [h]
  · simp [hi]

theorem State.readByte_writeByte_same (s : State) (i : Nat) (v : Byte) (hi : i < Config.pbufCap) :
    (s.writeByte i v).readByte i = v := by
  simp [State.readByte_writeByte, hi]

theorem State.readByte_writeByte_other (s : State) (i j : Nat) (v : Byte) (h : j ≠ i) :
    (s.writeByte i v).readByte j = s.readByte j := by
  simp [State.readByte_writeByte, h]

theorem State.writeByte_wf (s : State) (i : Nat) (v : Byte) (h : Memory.wf s.pbuf = true) :
    Memory.wf (s.writeByte i v).pbuf = true := by
  unfold State.writeByte
  split
  · exact Memory.wf_store _ _ _ h ‹_›
  · exact h

/-! ### Several bytes -/

/-- Reading after a block of writes inside `PBUF`: the block's byte, or the byte as before. -/
theorem State.readByte_writeBytes (s : State) (i j : Nat) (vs : List Byte) (h : i + vs.length ≤ Config.pbufCap) :
    (s.writeBytes i vs).readByte j = if i ≤ j ∧ j < i + vs.length then vs.getD (j - i) 0 else s.readByte j := by
  induction vs generalizing i s with
  | nil => simp [State.writeBytes]
  | cons v vs ih =>
    simp only [List.length_cons] at h ⊢
    rw [State.writeBytes, ih _ _ (by omega), State.readByte_writeByte]
    by_cases h1 : j = i
    · subst h1; simp [show j < Config.pbufCap by omega]
    · by_cases h2 : i + 1 ≤ j ∧ j < i + 1 + vs.length
      · obtain ⟨k, rfl⟩ : ∃ k, j = i + 1 + k := ⟨j - (i + 1), by omega⟩
        rw [if_pos h2, if_pos (by omega), show i + 1 + k - (i + 1) = k by omega, show i + 1 + k - i = k + 1 by omega]
        simp
      · rw [if_neg h2, if_neg (by omega), if_neg (by omega)]

theorem State.writeBytes_wf (s : State) (i : Nat) (vs : List Byte) (h : Memory.wf s.pbuf = true) :
    Memory.wf (s.writeBytes i vs).pbuf = true := by
  induction vs generalizing i s with
  | nil => exact h
  | cons v vs ih => exact ih _ _ (s.writeByte_wf i v h)

@[simp] theorem State.writeBytes_seq (s : State) (i : Nat) (vs : List Byte) : (s.writeBytes i vs).seq = s.seq := by
  induction vs generalizing i s with
  | nil => rfl
  | cons v vs ih => simp [State.writeBytes, ih]

@[simp] theorem State.writeBytes_acc (s : State) (i : Nat) (vs : List Byte) : (s.writeBytes i vs).acc = s.acc := by
  induction vs generalizing i s with
  | nil => rfl
  | cons v vs ih => simp [State.writeBytes, ih]

@[simp] theorem State.writeBytes_last (s : State) (i : Nat) (vs : List Byte) : (s.writeBytes i vs).last = s.last := by
  induction vs generalizing i s with
  | nil => rfl
  | cons v vs ih => simp [State.writeBytes, ih]

@[simp] theorem State.writeBytes_errCmd (s : State) (i : Nat) (vs : List Byte) : (s.writeBytes i vs).errCmd = s.errCmd := by
  induction vs generalizing i s with
  | nil => rfl
  | cons v vs ih => simp [State.writeBytes, ih]

@[simp] theorem State.writeBytes_errBus (s : State) (i : Nat) (vs : List Byte) : (s.writeBytes i vs).errBus = s.errBus := by
  induction vs generalizing i s with
  | nil => rfl
  | cons v vs ih => simp [State.writeBytes, ih]

@[simp] theorem State.writeBytes_ports (s : State) (i : Nat) (vs : List Byte) : (s.writeBytes i vs).ports = s.ports := by
  induction vs generalizing i s with
  | nil => rfl
  | cons v vs ih => simp [State.writeBytes, ih]

@[simp] theorem State.writeBytes_inputs (s : State) (i : Nat) (vs : List Byte) : (s.writeBytes i vs).inputs = s.inputs := by
  induction vs generalizing i s with
  | nil => rfl
  | cons v vs ih => simp [State.writeBytes, ih]

@[simp] theorem State.writeBytes_output (s : State) (i : Nat) (vs : List Byte) : (s.writeBytes i vs).output = s.output := by
  induction vs generalizing i s with
  | nil => rfl
  | cons v vs ih => simp [State.writeBytes, ih]

@[simp] theorem State.writeBytes_readData (s : State) (i : Nat) (vs : List Byte) : (s.writeBytes i vs).readData = s.readData := by
  induction vs generalizing i s with
  | nil => rfl
  | cons v vs ih => simp [State.writeBytes, ih]

@[simp] theorem State.writeBytes_resetDraw (s : State) (i : Nat) (vs : List Byte) : (s.writeBytes i vs).resetDraw = s.resetDraw := by
  induction vs generalizing i s with
  | nil => rfl
  | cons v vs ih => simp [State.writeBytes, ih]

theorem State.readBytes_length (s : State) (i n : Nat) : (s.readBytes i n).length = n := by
  simp [State.readBytes]

/-- The bytes of a span depend on the bytes of that span alone. -/
theorem State.readBytes_congr (s t : State) (i n : Nat) (h : ∀ j, i ≤ j → j < i + n → t.readByte j = s.readByte j) :
    t.readBytes i n = s.readBytes i n := by
  unfold State.readBytes
  apply List.map_congr_left
  intro k hk
  rw [List.mem_range] at hk
  exact h _ (by omega) (by omega)

end Sys2Proof.Machine
end

