-- ==== Sys2Proof/Laws/Checksum.lean ====
section
/-! SUPPORT. The checksum engine: what CRCAPP writes and leaves (40_checksum.md R117), the index bound (R121), and the
meaning of each checksum command as one equation. -/

namespace Sys2Proof.Machine

theorem crc_nil (a : Half) : crc a [] = a := rfl

theorem crc_cons (a : Half) (b : Byte) (bs : List Byte) : crc a (b :: bs) = crc (crcStep a b) bs := rfl

theorem crc_append (a : Half) (bs cs : List Byte) : crc a (bs ++ cs) = crc (crc a bs) cs := by
  simp [crc, List.foldl_append]

theorem State.payloadLen_lt (s : State) : s.payloadLen < 256 := (s.readByte 1).isLt

/-- The checksum that CRCAPP computes: the covered bytes, then the seed when there is one (R117, R119). -/
def State.checksumWith (seed : Option Byte) (s : State) : Half := crc Config.crcInit (s.coveredBytes ++ seed.toList)

/-- CRCAPP as three writes: the transient seed is gone (10_state.md R37). -/
theorem State.crcAppend_readByte (seed : Option Byte) (s : State) (i : Nat) :
    (s.crcAppend seed).readByte i =
      if i = 6 + s.payloadLen then loByte (s.checksumWith seed)
      else if i = 7 + s.payloadLen then hiByte (s.checksumWith seed)
      else s.readByte i := by
  have hlen := s.payloadLen_lt
  have h6 : 6 + s.payloadLen < Config.pbufCap := by simp only [Config.pbufCap]; omega
  have h7 : 7 + s.payloadLen < Config.pbufCap := by simp only [Config.pbufCap]; omega
  cases seed with
  | none =>
    simp only [State.crcAppend, State.setAcc_readByte, State.readByte_writeByte, State.checksumWith, h6, h7]
    by_cases h : i = 6 + s.payloadLen
    · subst h; simp
    · simp [h]
  | some b =>
    simp only [State.crcAppend, State.setAcc_readByte, State.readByte_writeByte, State.checksumWith, h6, h7,
      Option.toList_some, crc_append, crc_cons, crc_nil, and_self, if_true]
    by_cases h : i = 6 + s.payloadLen
    · subst h; simp
    · simp [h]

theorem State.crcAppend_acc (seed : Option Byte) (s : State) :
    (s.crcAppend seed).acc = s.checksumWith seed := by
  have hlen := s.payloadLen_lt
  have h6 : 6 + s.payloadLen < Config.pbufCap := by simp only [Config.pbufCap]; omega
  cases seed with
  | none => simp [State.crcAppend, State.checksumWith]
  | some b =>
    simp [State.crcAppend, State.checksumWith, crc_append, crc_cons, crc_nil, State.readByte_writeByte, h6]

theorem State.crcAppend_wf (seed : Option Byte) (s : State) (h : Memory.wf s.pbuf = true) :
    Memory.wf (s.crcAppend seed).pbuf = true := by
  cases seed with
  | none => exact State.writeByte_wf _ _ _ (State.writeByte_wf _ _ _ h)
  | some b => exact State.writeByte_wf _ _ _ (State.writeByte_wf _ _ _ (State.writeByte_wf _ _ _ h))

@[simp] theorem State.crcAppend_seq (seed : Option Byte) (s : State) : (s.crcAppend seed).seq = s.seq := by
  cases seed <;> simp [State.crcAppend]

@[simp] theorem State.crcAppend_last (seed : Option Byte) (s : State) : (s.crcAppend seed).last = s.last := by
  cases seed <;> simp [State.crcAppend]

@[simp] theorem State.crcAppend_errCmd (seed : Option Byte) (s : State) : (s.crcAppend seed).errCmd = s.errCmd := by
  cases seed <;> simp [State.crcAppend]

@[simp] theorem State.crcAppend_errBus (seed : Option Byte) (s : State) : (s.crcAppend seed).errBus = s.errBus := by
  cases seed <;> simp [State.crcAppend]

@[simp] theorem State.crcAppend_ports (seed : Option Byte) (s : State) : (s.crcAppend seed).ports = s.ports := by
  cases seed <;> simp [State.crcAppend]

@[simp] theorem State.crcAppend_inputs (seed : Option Byte) (s : State) : (s.crcAppend seed).inputs = s.inputs := by
  cases seed <;> simp [State.crcAppend]

@[simp] theorem State.crcAppend_output (seed : Option Byte) (s : State) : (s.crcAppend seed).output = s.output := by
  cases seed <;> simp [State.crcAppend]

@[simp] theorem State.crcAppend_readData (seed : Option Byte) (s : State) : (s.crcAppend seed).readData = s.readData := by
  cases seed <;> simp [State.crcAppend]

@[simp] theorem State.crcAppend_resetDraw (seed : Option Byte) (s : State) : (s.crcAppend seed).resetDraw = s.resetDraw := by
  cases seed <;> simp [State.crcAppend]

/-- The checksum depends on the covered bytes alone (40_checksum.md R122). -/
theorem State.checksumWith_congr (seed : Option Byte) (s t : State) (hlen : t.payloadLen = s.payloadLen)
    (h : ∀ i, 1 ≤ i → i ≤ 5 + s.payloadLen → t.readByte i = s.readByte i) :
    t.checksumWith seed = s.checksumWith seed := by
  unfold State.checksumWith State.coveredBytes
  rw [hlen, State.readBytes_congr s t 1 (5 + s.payloadLen) (fun j h1 h2 => h j h1 (by omega))]

@[simp] theorem exec_crcInit (s : State) : exec .crcInit s = .next (s.setAcc Config.crcInit) := rfl

@[simp] theorem exec_crcByte (b : Byte) (s : State) :
    exec (.crcByte b) s = .next (s.setAcc (crcStep s.acc b)) := rfl

@[simp] theorem exec_crcApp (s : State) : exec .crcApp s = .next (s.crcAppend none) := rfl

@[simp] theorem exec_crcAppS (b : Byte) (s : State) : exec (.crcAppS b) s = .next (s.crcAppend (some b)) := rfl

end Sys2Proof.Machine
end

