-- ==== Sys2Proof/Laws/Layout.lean ====
section
/-! SUPPORT. The field layout encoder and the byte-order fixup: which bytes they write and with what, and that they change
nothing else (41_encoder.md R149, 42_byteorder.md R173). -/

namespace Sys2Proof.Machine

/-! ### ENCODE -/

theorem fieldBytes_length (e : Ports) : (fieldBytes e).length = 9 := by
  unfold fieldBytes; split <;> rfl

theorem payloadBytes_length (e : Ports) : (payloadBytes e).length = 12 := by
  simp [payloadBytes, fieldBytes_length, Config.payloadLen]

/-- The payload of a v1.0 sample (41_encoder.md R144). -/
theorem payloadBytes_v10 (e : Ports) (h : isV10 e = true) :
    payloadBytes e = counterBytes e ++ statBytes e ++ [0, 0, 0] := by
  simp [payloadBytes, fieldBytes_length, Config.payloadLen, List.replicate]
  simp [fieldBytes, h]

/-- The payload of a v0.9 sample before the fixup (41_encoder.md R145). -/
theorem payloadBytes_v09 (e : Ports) (h : isV10 e = false) :
    payloadBytes e = statBytes e ++ counterBytes e ++ [0, 0, 0] := by
  simp [payloadBytes, fieldBytes_length, Config.payloadLen, List.replicate]
  simp [fieldBytes, h]

theorem State.encodePayload_readByte (e : Ports) (s : State) (i : Nat) :
    (s.encodePayload e).readByte i = if 6 ≤ i ∧ i < 18 then (payloadBytes e).getD (i - 6) 0 else s.readByte i := by
  rw [State.encodePayload, State.readByte_writeBytes _ _ _ _ (by rw [payloadBytes_length]; decide),
    payloadBytes_length]
  rfl

theorem State.encodePayload_wf (e : Ports) (s : State) (h : Memory.wf s.pbuf = true) :
    Memory.wf (s.encodePayload e).pbuf = true := State.writeBytes_wf _ _ _ h

@[simp] theorem State.encodePayload_seq (e : Ports) (s : State) : (s.encodePayload e).seq = s.seq := by
  simp [State.encodePayload]

@[simp] theorem State.encodePayload_acc (e : Ports) (s : State) : (s.encodePayload e).acc = s.acc := by
  simp [State.encodePayload]

@[simp] theorem State.encodePayload_last (e : Ports) (s : State) : (s.encodePayload e).last = s.last := by
  simp [State.encodePayload]

@[simp] theorem State.encodePayload_errCmd (e : Ports) (s : State) : (s.encodePayload e).errCmd = s.errCmd := by
  simp [State.encodePayload]

@[simp] theorem State.encodePayload_errBus (e : Ports) (s : State) : (s.encodePayload e).errBus = s.errBus := by
  simp [State.encodePayload]

@[simp] theorem State.encodePayload_ports (e : Ports) (s : State) : (s.encodePayload e).ports = s.ports := by
  simp [State.encodePayload]

@[simp] theorem State.encodePayload_inputs (e : Ports) (s : State) : (s.encodePayload e).inputs = s.inputs := by
  simp [State.encodePayload]

@[simp] theorem State.encodePayload_output (e : Ports) (s : State) : (s.encodePayload e).output = s.output := by
  simp [State.encodePayload]

@[simp] theorem State.encodePayload_readData (e : Ports) (s : State) : (s.encodePayload e).readData = s.readData := by
  simp [State.encodePayload]

@[simp] theorem State.encodePayload_resetDraw (e : Ports) (s : State) : (s.encodePayload e).resetDraw = s.resetDraw := by
  simp [State.encodePayload]

@[simp] theorem exec_encode (s : State) : exec .encode s = .next (s.encodePayload s.ports) := rfl

/-! ### FIXEND -/

/-- The pair swap inside `PBUF` (42_byteorder.md R170). -/
theorem State.swap2_readByte (s : State) (i j : Nat) (h : i + 1 < Config.pbufCap) :
    (s.swap2 i).readByte j =
      if j = i then s.readByte (i + 1) else if j = i + 1 then s.readByte i else s.readByte j := by
  simp only [State.swap2, State.readByte_writeByte, h, show i < Config.pbufCap by omega]
  by_cases h1 : j = i
  · subst h1; simp
  · by_cases h2 : j = i + 1 <;> simp [h1, h2]

theorem State.swap2_wf (s : State) (i : Nat) (h : Memory.wf s.pbuf = true) : Memory.wf (s.swap2 i).pbuf = true :=
  State.writeByte_wf _ _ _ (State.writeByte_wf _ _ _ h)

@[simp] theorem State.swap2_seq (i : Nat) (s : State) : (s.swap2 i).seq = s.seq := by
  simp [State.swap2]

@[simp] theorem State.swap2_acc (i : Nat) (s : State) : (s.swap2 i).acc = s.acc := by
  simp [State.swap2]

@[simp] theorem State.swap2_last (i : Nat) (s : State) : (s.swap2 i).last = s.last := by
  simp [State.swap2]

@[simp] theorem State.swap2_errCmd (i : Nat) (s : State) : (s.swap2 i).errCmd = s.errCmd := by
  simp [State.swap2]

@[simp] theorem State.swap2_errBus (i : Nat) (s : State) : (s.swap2 i).errBus = s.errBus := by
  simp [State.swap2]

@[simp] theorem State.swap2_ports (i : Nat) (s : State) : (s.swap2 i).ports = s.ports := by
  simp [State.swap2]

@[simp] theorem State.swap2_inputs (i : Nat) (s : State) : (s.swap2 i).inputs = s.inputs := by
  simp [State.swap2]

@[simp] theorem State.swap2_output (i : Nat) (s : State) : (s.swap2 i).output = s.output := by
  simp [State.swap2]

@[simp] theorem State.swap2_readData (i : Nat) (s : State) : (s.swap2 i).readData = s.readData := by
  simp [State.swap2]

@[simp] theorem State.swap2_resetDraw (i : Nat) (s : State) : (s.swap2 i).resetDraw = s.resetDraw := by
  simp [State.swap2]

theorem State.fixEndianness_v10 (e : Ports) (s : State) (h : isV10 e = true) : s.fixEndianness e = s := by
  simp [State.fixEndianness, h]

theorem State.fixEndianness_readByte_v09 (e : Ports) (s : State) (h : isV10 e = false) (i : Nat) :
    (s.fixEndianness e).readByte i =
      if i = 11 then s.readByte 12 else if i = 12 then s.readByte 11
      else if i = 13 then s.readByte 14 else if i = 14 then s.readByte 13 else s.readByte i := by
  have hfix : s.fixEndianness e = (s.swap2 11).swap2 13 := by simp [State.fixEndianness, h]
  rw [hfix, State.swap2_readByte _ 13 i (by decide), State.swap2_readByte s 11 (13 + 1) (by decide),
    State.swap2_readByte s 11 13 (by decide), State.swap2_readByte s 11 i (by decide)]
  by_cases h11 : i = 11
  · simp [h11]
  · by_cases h12 : i = 12 <;> simp [h11, h12]

/-- FIXEND touches the span 11..14 alone (42_byteorder.md R175). -/
theorem State.fixEndianness_readByte_other (e : Ports) (s : State) (i : Nat) (h : i < 11 ∨ 14 < i) :
    (s.fixEndianness e).readByte i = s.readByte i := by
  cases hv : isV10 e with
  | true => rw [State.fixEndianness_v10 e s hv]
  | false =>
    rw [State.fixEndianness_readByte_v09 e s hv, if_neg (by omega), if_neg (by omega), if_neg (by omega),
      if_neg (by omega)]

theorem State.fixEndianness_wf (e : Ports) (s : State) (h : Memory.wf s.pbuf = true) :
    Memory.wf (s.fixEndianness e).pbuf = true := by
  unfold State.fixEndianness
  split
  · exact h
  · exact State.swap2_wf _ _ (State.swap2_wf _ _ h)

@[simp] theorem State.fixEndianness_seq (e : Ports) (s : State) : (s.fixEndianness e).seq = s.seq := by
  unfold State.fixEndianness; split <;> simp

@[simp] theorem State.fixEndianness_acc (e : Ports) (s : State) : (s.fixEndianness e).acc = s.acc := by
  unfold State.fixEndianness; split <;> simp

@[simp] theorem State.fixEndianness_last (e : Ports) (s : State) : (s.fixEndianness e).last = s.last := by
  unfold State.fixEndianness; split <;> simp

@[simp] theorem State.fixEndianness_errCmd (e : Ports) (s : State) : (s.fixEndianness e).errCmd = s.errCmd := by
  unfold State.fixEndianness; split <;> simp

@[simp] theorem State.fixEndianness_errBus (e : Ports) (s : State) : (s.fixEndianness e).errBus = s.errBus := by
  unfold State.fixEndianness; split <;> simp

@[simp] theorem State.fixEndianness_ports (e : Ports) (s : State) : (s.fixEndianness e).ports = s.ports := by
  unfold State.fixEndianness; split <;> simp

@[simp] theorem State.fixEndianness_inputs (e : Ports) (s : State) : (s.fixEndianness e).inputs = s.inputs := by
  unfold State.fixEndianness; split <;> simp

@[simp] theorem State.fixEndianness_output (e : Ports) (s : State) : (s.fixEndianness e).output = s.output := by
  unfold State.fixEndianness; split <;> simp

@[simp] theorem State.fixEndianness_readData (e : Ports) (s : State) : (s.fixEndianness e).readData = s.readData := by
  unfold State.fixEndianness; split <;> simp

@[simp] theorem State.fixEndianness_resetDraw (e : Ports) (s : State) : (s.fixEndianness e).resetDraw = s.resetDraw := by
  unfold State.fixEndianness; split <;> simp

@[simp] theorem exec_fixEnd (s : State) : exec .fixEnd s = .next (s.fixEndianness s.ports) := rfl

end Sys2Proof.Machine
end

