-- ==== Sys2Proof/Laws/Composer.lean ====
section
/-! SUPPORT. The report composer: what HDR writes, what composing a frame leaves, and what the flow-control gate does
(43_composer.md R192, R193). -/

namespace Sys2Proof.Machine

theorem headerBytes_length (e : Ports) (n : Byte) : (headerBytes e n).length = 6 := rfl

theorem State.header_readByte (e : Ports) (s : State) (i : Nat) :
    (s.header e).readByte i = if i < 6 then (headerBytes e s.seq).getD i 0 else s.readByte i := by
  rw [State.header, State.setSeq_readByte, State.readByte_writeBytes _ _ _ _ (by rw [headerBytes_length]; decide)]
  simp [headerBytes_length]

@[simp] theorem State.header_seq (e : Ports) (s : State) : (s.header e).seq = s.seq + 1 := rfl

theorem State.header_wf (e : Ports) (s : State) (h : Memory.wf s.pbuf = true) :
    Memory.wf (s.header e).pbuf = true := State.writeBytes_wf _ _ _ h

@[simp] theorem State.header_acc (e : Ports) (s : State) : (s.header e).acc = s.acc := by
  simp [State.header]

@[simp] theorem State.header_last (e : Ports) (s : State) : (s.header e).last = s.last := by
  simp [State.header]

@[simp] theorem State.header_errCmd (e : Ports) (s : State) : (s.header e).errCmd = s.errCmd := by
  simp [State.header]

@[simp] theorem State.header_errBus (e : Ports) (s : State) : (s.header e).errBus = s.errBus := by
  simp [State.header]

@[simp] theorem State.header_ports (e : Ports) (s : State) : (s.header e).ports = s.ports := by
  simp [State.header]

@[simp] theorem State.header_inputs (e : Ports) (s : State) : (s.header e).inputs = s.inputs := by
  simp [State.header]

@[simp] theorem State.header_output (e : Ports) (s : State) : (s.header e).output = s.output := by
  simp [State.header]

@[simp] theorem State.header_readData (e : Ports) (s : State) : (s.header e).readData = s.readData := by
  simp [State.header]

@[simp] theorem State.header_resetDraw (e : Ports) (s : State) : (s.header e).resetDraw = s.resetDraw := by
  simp [State.header]

@[simp] theorem exec_hdr (s : State) : exec .hdr s = .next (s.header s.ports) := rfl

theorem State.compose_wf (e : Ports) (s : State) (h : Memory.wf s.pbuf = true) :
    Memory.wf (s.compose e).pbuf = true :=
  State.crcAppend_wf _ _ (State.fixEndianness_wf _ _ (State.encodePayload_wf _ _ (State.header_wf _ _ h)))

@[simp] theorem State.compose_seq (e : Ports) (s : State) : (s.compose e).seq = s.seq + 1 := by
  simp [State.compose]

@[simp] theorem State.compose_last (e : Ports) (s : State) : (s.compose e).last = s.last := by
  simp [State.compose]

@[simp] theorem State.compose_errCmd (e : Ports) (s : State) : (s.compose e).errCmd = s.errCmd := by
  simp [State.compose]

@[simp] theorem State.compose_errBus (e : Ports) (s : State) : (s.compose e).errBus = s.errBus := by
  simp [State.compose]

@[simp] theorem State.compose_ports (e : Ports) (s : State) : (s.compose e).ports = s.ports := by
  simp [State.compose]

@[simp] theorem State.compose_inputs (e : Ports) (s : State) : (s.compose e).inputs = s.inputs := by
  simp [State.compose]

@[simp] theorem State.compose_output (e : Ports) (s : State) : (s.compose e).output = s.output := by
  simp [State.compose]

@[simp] theorem State.compose_readData (e : Ports) (s : State) : (s.compose e).readData = s.readData := by
  simp [State.compose]

@[simp] theorem State.compose_resetDraw (e : Ports) (s : State) : (s.compose e).resetDraw = s.resetDraw := by
  simp [State.compose]

/-- With room the frame goes out (43_composer.md R193 step 6). -/
theorem State.flush_sent (e : Ports) (s : State) (h : txFits e = true) :
    s.flush e = (s.txWrite (s.readBytes 0 Config.frameLen)).setLast lastSent := by
  simp [State.flush, h]

/-- Without room nothing goes out (43_composer.md R195). -/
theorem State.flush_dropped (e : Ports) (s : State) (h : txFits e = false) :
    s.flush e = s.setLast lastDropped := by
  simp [State.flush, h]

/-- A flush leaves `STATUS.LAST` at SENT or DROPPED (10_state.md R31). -/
theorem State.flush_last (e : Ports) (s : State) :
    (s.flush e).last = if txFits e then lastSent else lastDropped := by
  unfold State.flush; split <;> rfl

theorem State.flush_output (e : Ports) (s : State) :
    (s.flush e).output = if txFits e then s.output ++ [s.readBytes 0 Config.frameLen] else s.output := by
  unfold State.flush; split <;> rfl

@[simp] theorem State.flush_pbuf (e : Ports) (s : State) : (s.flush e).pbuf = s.pbuf := by
  unfold State.flush; split <;> rfl

@[simp] theorem State.flush_seq (e : Ports) (s : State) : (s.flush e).seq = s.seq := by
  unfold State.flush; split <;> rfl

@[simp] theorem State.flush_acc (e : Ports) (s : State) : (s.flush e).acc = s.acc := by
  unfold State.flush; split <;> rfl

@[simp] theorem State.flush_errCmd (e : Ports) (s : State) : (s.flush e).errCmd = s.errCmd := by
  unfold State.flush; split <;> rfl

@[simp] theorem State.flush_errBus (e : Ports) (s : State) : (s.flush e).errBus = s.errBus := by
  unfold State.flush; split <;> rfl

@[simp] theorem State.flush_ports (e : Ports) (s : State) : (s.flush e).ports = s.ports := by
  unfold State.flush; split <;> rfl

@[simp] theorem State.flush_inputs (e : Ports) (s : State) : (s.flush e).inputs = s.inputs := by
  unfold State.flush; split <;> rfl

@[simp] theorem State.flush_readData (e : Ports) (s : State) : (s.flush e).readData = s.readData := by
  unfold State.flush; split <;> rfl

@[simp] theorem State.flush_resetDraw (e : Ports) (s : State) : (s.flush e).resetDraw = s.resetDraw := by
  unfold State.flush; split <;> rfl

@[simp] theorem State.flush_readByte (e : Ports) (s : State) (i : Nat) : (s.flush e).readByte i = s.readByte i := by
  unfold State.flush; split <;> rfl

@[simp] theorem exec_report (s : State) : exec .report s = .next ((s.compose s.ports).flush s.ports) := rfl

end Sys2Proof.Machine
end

