-- ==== Sys2Proof/Laws/Decode.lean ====
section
/-! SUPPORT. The fields of a command word: taking a word apart and putting it together are inverse (30_encoding.md R81), and
what the decoder answers in terms of the fields (R91). -/

namespace Sys2Proof

theorem fieldsOf_wordOf (f : CmdFields) : fieldsOf (wordOf f) = f := by
  obtain ⟨opc, rsv1, s, rsv0, imm8⟩ := f
  simp only [fieldsOf, wordOf, CmdFields.mk.injEq]
  refine ⟨?_, ?_, ?_, ?_, ?_⟩ <;>
  · apply BitVec.eq_of_getLsbD_eq
    intro i hi
    simp only [BitVec.getLsbD_extractLsb', BitVec.getLsbD_append]
    interval_cases i <;> simp

theorem wordOf_fieldsOf (w : Word) : wordOf (fieldsOf w) = w := by
  apply BitVec.eq_of_getLsbD_eq
  intro i hi
  simp only [fieldsOf, wordOf, BitVec.getLsbD_extractLsb', BitVec.getLsbD_append]
  interval_cases i <;> simp

/-- A word is its fields. -/
theorem fieldsOf_injective {v w : Word} (h : fieldsOf v = fieldsOf w) : v = w := by
  rw [← wordOf_fieldsOf v, ← wordOf_fieldsOf w, h]

theorem noOperand_ok {f : CmdFields} {i j : Instr} :
    noOperand f i = .ok j ↔ f.s = 0 ∧ f.imm8 = 0 ∧ i = j := by
  unfold noOperand
  split <;> simp_all

end Sys2Proof
end

