-- ==== Sys2Proof/Laws/PerInstr.lean ====
section
/-! SUPPORT. Statements made per command, one lemma per constructor of Instr. -/

namespace Sys2Proof.Laws.EncodedFieldsLegal

/-- The fields that the encoder gives a command pass the check of 30_encoding.md R84 and R85, written apart from it. -/
def Statement (i : Instr) : Prop := (encodeFields i).wf = true

theorem crcInit : Statement .crcInit := rfl
theorem crcByte (b : Byte) : Statement (.crcByte b) := by
  simp [Statement, encodeFields, CmdFields.wf, CmdFields.reservedZero, CmdFields.opcodeKnown, CmdFields.operandLegal]
theorem crcApp : Statement .crcApp := rfl
theorem crcAppS (b : Byte) : Statement (.crcAppS b) := by
  simp [Statement, encodeFields, CmdFields.wf, CmdFields.reservedZero, CmdFields.opcodeKnown, CmdFields.operandLegal]
theorem fixEnd : Statement .fixEnd := rfl
theorem hdr : Statement .hdr := rfl
theorem encode : Statement .encode := rfl
theorem report : Statement .report := rfl

end Sys2Proof.Laws.EncodedFieldsLegal
end

