-- ==== Sys2Proof/Laws/Step.lean ====
section
/-! SUPPORT. The host bus and the step: what each kind of access and input answers, said once, so that proofs about a step
cite these cases and do not unfold the decoder. -/

namespace Sys2Proof.Machine

/-! ### The decoders -/

theorem executeCommand_ok (w : Word) (s : State) (i : Instr) (h : decode w = .ok i) :
    executeCommand w s = exec i s := by
  simp [executeCommand, h]

theorem executeCommand_error (w : Word) (s : State) (e : CmdReject) (h : decode w = .error e) :
    executeCommand w s = .next (s.raise .errCmd) := by
  simp [executeCommand, h]

/-- A `CMD` write is legal and runs its command, or illegal and raises ERR_CMD (30_encoding.md R86, R91). -/
theorem executeCommand_cases (w : Word) (s : State) :
    (∃ i, decode w = .ok i ∧ executeCommand w s = exec i s) ∨
    (∃ e, decode w = .error e ∧ executeCommand w s = .next (s.raise .errCmd)) := by
  cases h : decode w with
  | ok i => exact .inl ⟨i, rfl, executeCommand_ok w s i h⟩
  | error e => exact .inr ⟨e, rfl, executeCommand_error w s e h⟩

@[simp] theorem decodeAccess_cmdWrite (w : Word) : decodeAccess (cmdWrite w) = .ok .cmd := rfl

@[simp] theorem decodeAccess_status (k : AccessKind) :
    decodeAccess { kind := k, offset := 0x004, size := .four } = .ok .status := by
  simp [decodeAccess, targetOf]

@[simp] theorem decodeAccess_acc (k : AccessKind) :
    decodeAccess { kind := k, offset := 0x008, size := .four } = .ok .acc := by
  simp [decodeAccess, targetOf]

@[simp] theorem decodeAccess_seq (k : AccessKind) :
    decodeAccess { kind := k, offset := 0x00C, size := .four } = .ok .seq := by
  simp [decodeAccess, targetOf]

/-- An access in whose record the offset is that of buffer byte `i` (20_memory.md R59). -/
theorem decodeAccess_window (k : AccessKind) (off : Offset) (i : Nat) (hi : i < Config.pbufCap)
    (h : off.toNat = 0x400 + 4 * i) : decodeAccess { kind := k, offset := off, size := .four } = .ok (.pbuf i) := by
  have hcap : i < 263 := hi
  have halign : off.extractLsb' 0 2 = 0 := by
    apply BitVec.eq_of_toNat_eq
    simp [BitVec.extractLsb'_toNat, h]
  have ht : targetOf off = some (.pbuf i) := by
    simp only [targetOf, h]
    rw [if_neg (by omega), if_neg (by omega), if_neg (by omega), if_neg (by omega), if_pos (by omega)]
    congr 2
    omega
  simp [decodeAccess, halign, ht]

/-- An access that fails one of the three checks is refused (20_memory.md R55 to R57). -/
theorem decodeAccess_refused (a : BusAccess)
    (h : a.size ≠ .four ∨ a.offset.toNat % 4 ≠ 0 ∨ (0x010 ≤ a.offset.toNat ∧ a.offset.toNat ≤ 0x3FC) ∨
      (0x81C ≤ a.offset.toNat ∧ a.offset.toNat ≤ 0xFFC)) :
    ∃ r, decodeAccess a = .error r := by
  obtain ⟨k, off, sz⟩ := a
  cases sz with
  | one => exact ⟨.size, rfl⟩
  | two => exact ⟨.size, rfl⟩
  | four =>
    simp only [ne_eq, not_true_eq_false, false_or] at h
    by_cases h0 : off.extractLsb' 0 2 = 0
    · have hmod : off.toNat % 4 = 0 := by simpa [BitVec.extractLsb'_toNat] using congrArg BitVec.toNat h0
      have hnone : targetOf off = none := by
        unfold targetOf
        rw [if_neg (by omega), if_neg (by omega), if_neg (by omega), if_neg (by omega), if_neg (by omega)]
      exact ⟨.unmapped, by simp [decodeAccess, h0, hnone]⟩
    · exact ⟨.alignment, by simp only [decodeAccess, ne_eq]; rw [if_pos h0]⟩

/-! ### The bus -/

theorem busAccess_cmdWrite (w : Word) (s : State) : busAccess (cmdWrite w) s = executeCommand w s := rfl

/-- What a legal read returns; it changes nothing else (20_memory.md R53, R58). -/
theorem busAccess_read_ok (a : BusAccess) (s : State) (t : Target) (hk : a.kind = .read)
    (h : decodeAccess a = .ok t) : busAccess a s = .next (s.respond (readTarget t s)) := by
  simp [busAccess, hk, h]

theorem busAccess_read_error (a : BusAccess) (s : State) (r : BusReject) (hk : a.kind = .read)
    (h : decodeAccess a = .error r) : busAccess a s = .next ((s.raise .errBus).respond 0) := by
  simp [busAccess, hk, h]

theorem busAccess_write_ok (a : BusAccess) (w : Word) (s : State) (t : Target) (hk : a.kind = .write w)
    (h : decodeAccess a = .ok t) : busAccess a s = writeTarget t w s := by
  simp [busAccess, hk, h]

theorem busAccess_write_error (a : BusAccess) (w : Word) (s : State) (r : BusReject) (hk : a.kind = .write w)
    (h : decodeAccess a = .error r) : busAccess a s = .next (s.raise .errBus) := by
  simp [busAccess, hk, h]

/-- Everything a bus access can do. -/
theorem busAccess_cases (a : BusAccess) (s : State) :
    (∃ t, a.kind = .read ∧ decodeAccess a = .ok t ∧ busAccess a s = .next (s.respond (readTarget t s))) ∨
    (∃ r, a.kind = .read ∧ decodeAccess a = .error r ∧ busAccess a s = .next ((s.raise .errBus).respond 0)) ∨
    (∃ w, a.kind = .write w ∧ decodeAccess a = .ok .cmd ∧ busAccess a s = executeCommand w s) ∨
    (∃ w i, a.kind = .write w ∧ decodeAccess a = .ok (.pbuf i) ∧
      busAccess a s = .next (s.writeByte i (w.extractLsb' 0 8))) ∨
    (∃ w t, a.kind = .write w ∧ decodeAccess a = .ok t ∧ busAccess a s = .next s) ∨
    (∃ w r, a.kind = .write w ∧ decodeAccess a = .error r ∧ busAccess a s = .next (s.raise .errBus)) := by
  cases hk : a.kind with
  | read =>
    cases hd : decodeAccess a with
    | ok t => exact .inl ⟨t, rfl, rfl, busAccess_read_ok a s t hk hd⟩
    | error r => exact .inr (.inl ⟨r, rfl, rfl, busAccess_read_error a s r hk hd⟩)
  | write w =>
    cases hd : decodeAccess a with
    | ok t =>
      have hw := busAccess_write_ok a w s t hk hd
      cases t with
      | cmd => exact .inr (.inr (.inl ⟨w, rfl, rfl, hw⟩))
      | pbuf i => exact .inr (.inr (.inr (.inl ⟨w, i, rfl, rfl, hw⟩)))
      | status => exact .inr (.inr (.inr (.inr (.inl ⟨w, .status, rfl, rfl, hw⟩))))
      | acc => exact .inr (.inr (.inr (.inr (.inl ⟨w, .acc, rfl, rfl, hw⟩))))
      | seq => exact .inr (.inr (.inr (.inr (.inl ⟨w, .seq, rfl, rfl, hw⟩))))
    | error r => exact .inr (.inr (.inr (.inr (.inr ⟨w, r, rfl, rfl, busAccess_write_error a w s r hk hd⟩))))

/-! ### The step -/

theorem step_idle (s : State) (h : s.inputs = []) : step s = .next s := by
  simp [step, h]

theorem step_input (s : State) (i : Input) (rest : List Input) (h : s.inputs = i :: rest) :
    step s = accept i (s.setInputs rest) := by
  simp [step, h]

/-- A step idles or performs the oldest input. -/
theorem step_cases (s : State) :
    (s.inputs = [] ∧ step s = .next s) ∨
    (∃ a rest, s.inputs = .access a :: rest ∧ step s = busAccess a (s.setInputs rest)) ∨
    (∃ p rest, s.inputs = .ports p :: rest ∧ step s = .next ((s.setInputs rest).drivePorts p)) ∨
    (∃ rest, s.inputs = .reset :: rest ∧ step s = .next (s.setInputs rest).resetBlock) := by
  cases h : s.inputs with
  | nil => exact .inl ⟨rfl, step_idle s h⟩
  | cons i rest =>
    have hs := step_input s i rest h
    cases i with
    | access a => exact .inr (.inl ⟨a, rest, rfl, hs⟩)
    | ports p => exact .inr (.inr (.inl ⟨p, rest, rfl, hs⟩))
    | reset => exact .inr (.inr (.inr ⟨rest, rfl, hs⟩))

theorem withFetchWord_inputs (s : State) (nbits w : Nat) :
    (s.withFetchWord nbits w).inputs = .access (cmdWrite (BitVec.ofNat 32 (w % 2 ^ nbits))) :: s.inputs := rfl

end Sys2Proof.Machine
end

