-- ==== Sys2Proof/Tests/Slice0.lean ====
section
/-! SUPPORT. The model's own tests. Expected values are those of spec/95_test_vectors.md (named in each test) or are written
out from the spec's tables; the witnesses at the end meet the hypotheses of the statements. -/

namespace Sys2Proof.Tests

open Sys2Proof.Machine

/-- A field of the next state. -/
def fieldOf {α : Type} (o : Host.Outcome State Fault Refusal) (f : State → α) : Option α :=
  match o with
  | .next t    => some (f t)
  | .fault _   => none
  | .refused _ => none

/-- Statistics set `S1` of 95_test_vectors.md, with the version, the node and the transport space. -/
def portsS1 (v n : BitVec 1) (space : Half) : Ports :=
  { version := v, nodeId := n, locRssi := ⟨0x11, 200⟩, locNoise := ⟨0x22, 10⟩, remRssi := ⟨0x33, 150⟩,
    remNoise := ⟨0x44, 5⟩, rxErrors := 3, corrected := 1, txbuf := 50, txSpace := space }

/-- Statistics set `S2` of 95_test_vectors.md. -/
def portsS2 (v n : BitVec 1) (space : Half) : Ports :=
  { version := v, nodeId := n, locRssi := ⟨1, 2⟩, locNoise := ⟨3, 4⟩, remRssi := ⟨5, 6⟩,
    remNoise := ⟨7, 8⟩, rxErrors := 0x1234, corrected := 0xABCD, txbuf := 100, txSpace := space }

/-- The reset state with values at the ports. -/
def atPorts (p : Ports) : State := State.reset.drivePorts p

/-- The reset state with bytes in the buffer. -/
def withBytes (i : Nat) (vs : List Byte) : State := (atPorts (portsS1 1 0 64)).writeBytes i vs

/-- The reset state with one access waiting. -/
def withAccess (k : AccessKind) (off : Offset) (sz : AccessSize) : State :=
  (atPorts (portsS1 1 0 64)).setInputs [.access { kind := k, offset := off, size := sz }]

/-! ### WellFormed: an ill-formed term for each check -/

theorem test_wf_reserved : (fieldsOf 0x03020000).reservedZero = false ∧ (fieldsOf 0x05000100).reservedZero = false := by decide
theorem test_wf_opcode : (fieldsOf 0x00000000).opcodeKnown = false ∧ (fieldsOf 0x08000000).opcodeKnown = false := by decide
theorem test_wf_operand : (fieldsOf 0x03000015).operandLegal = false ∧ (fieldsOf 0x02010031).operandLegal = false ∧
    (fieldsOf 0x01000001).operandLegal = false := by decide
theorem test_wf_command : (fieldsOf 0x030100AA).wf = true ∧ (fieldsOf 0x07800000).wf = false := by decide
theorem test_wf_size : BusAccess.sizeLegal { kind := .read, offset := 0x400, size := .one } = false := by decide
theorem test_wf_aligned : BusAccess.aligned { kind := .read, offset := 0x002, size := .four } = false := by decide
theorem test_wf_mapped : BusAccess.mapped { kind := .read, offset := 0x010, size := .four } = false ∧
    BusAccess.mapped { kind := .read, offset := 0x81C, size := .four } = false := by decide
theorem test_wf_access : BusAccess.wf { kind := .read, offset := 0x818, size := .four } = true := by decide
theorem test_wf_line_count : Line.wf (.command .hdr (some 1)) = false ∧ Line.wf (.command .crcByte none) = false := by decide
theorem test_wf_line_byte : Line.wf (.command .crcByte (some 256)) = false ∧ Line.wf (.command .crcAppS (some 255)) = true := by decide
theorem test_wf_line_range : Line.wf (.wr 4096 0) = false ∧ Line.wf (.wr 0 4294967296) = false ∧ Line.wf (.rdbuf 768) = false := by decide

/-! ### Decoding: words written out from 30_encoding.md R81 and R83 -/

theorem test_decode_crcInit : decode 0b00000001_0000000_0_00000000_00000000 = .ok .crcInit := by decide
theorem test_decode_crcByte : decode 0b00000010_0000000_0_00000000_00110001 = .ok (.crcByte 0x31) := by decide
theorem test_decode_crcApp : decode 0b00000011_0000000_0_00000000_00000000 = .ok .crcApp := by decide
theorem test_decode_crcAppS : decode 0b00000011_0000000_1_00000000_10101010 = .ok (.crcAppS 0xAA) := by decide
theorem test_decode_fixEnd : decode 0b00000100_0000000_0_00000000_00000000 = .ok .fixEnd := by decide
theorem test_decode_hdr : decode 0b00000101_0000000_0_00000000_00000000 = .ok .hdr := by decide
theorem test_decode_encode : decode 0b00000110_0000000_0_00000000_00000000 = .ok .encode := by decide
theorem test_decode_report : decode 0b00000111_0000000_0_00000000_00000000 = .ok .report := by decide
/-- V-DEC-1 to V-DEC-9. -/
theorem test_decode_illegal :
    decode 0x00000000 = .error .opcode ∧ decode 0x08000000 = .error .opcode ∧ decode 0xFF000000 = .error .opcode ∧
    decode 0x01000001 = .error .operand ∧ decode 0x03000015 = .error .operand ∧ decode 0x02010031 = .error .operand ∧
    decode 0x03020000 = .error .reserved ∧ decode 0x05000100 = .error .reserved ∧ decode 0x07800000 = .error .reserved := by decide
theorem test_encode : encode (.crcAppS 0xAA) = 0x030100AA ∧ encode .report = 0x07000000 := by decide
theorem test_decodeTableWord : decodeTableWord 32 0x05000000 = some .hdr ∧ decodeTableWord 32 0x05000100 = none := by decide
theorem test_withFetchWord_runs : step (State.reset.withFetchWord 32 0x06000000) = exec .encode State.reset := rfl

/-! ### The checksum engine -/

/-- V-CRC-1, V-CRC-6, V-CRC-8: the 8-bit width shows here (V-CRC-10). -/
theorem test_crcStep : crcStep 0xFFFF 0x00 = 0x0F87 ∧ crcStep 0x0000 0x80 = 0x8408 ∧ crcStep 0x1234 0x56 = 0x4006 := by decide
/-- V-CRC-8. -/
theorem test_crcBitwise : crcBitwise 0x1234 0x56 = 0x4006 := by decide
/-- V-CRC-13: the check value over "123456789". -/
theorem test_crc_check : crc 0xFFFF [0x31, 0x32, 0x33, 0x34, 0x35, 0x36, 0x37, 0x38, 0x39] = 0x6F91 := by decide
/-- V-CRC-11. -/
theorem test_crcInit : fieldOf (exec .crcInit (State.reset.setAcc 0x1234)) (·.acc) = some 0xFFFF := by decide
/-- V-DEC-10. -/
theorem test_crcByte : fieldOf (exec (.crcByte 0x31) State.reset) (·.acc) = some 0x2F8D := by decide
/-- V-CRC-15. -/
theorem test_crcApp : fieldOf (exec .crcApp (withBytes 0 [0xFE, 0x00, 0x07, 0x01, 0x02, 0x03]))
    (fun t => (t.readBytes 0 8, t.acc)) = some ([0xFE, 0x00, 0x07, 0x01, 0x02, 0x03, 0x5E, 0x3C], 0x3C5E) := by decide
/-- V-CRC-20: `L' = 3`, and `PBUF[0]` is not covered. -/
theorem test_crcAppS : fieldOf (exec (.crcAppS 0x15) (withBytes 0 [0x00, 0x03, 0xA5, 0x01, 0x02, 0x03, 0x10, 0x20, 0x30]))
    (fun t => (t.readBytes 8 3, t.acc)) = some ([0x30, 0x37, 0xC9], 0xC937) := by decide
/-- V-CRC-18: a zero seed is still a step. -/
theorem test_crcAppS_zero : fieldOf (exec (.crcAppS 0x00) (withBytes 0 [0xFE, 0x00, 0x07, 0x01, 0x02, 0x03]))
    (·.acc) = some 0xBBC7 := by decide

/-! ### The encoder, the fixup, the composer -/

/-- V-ENC-1. -/
theorem test_encode_v10 : fieldOf (exec .encode (atPorts (portsS1 1 0 64))) (·.readBytes 6 12) =
    some [0x03, 0x00, 0x01, 0x00, 0x32, 0x0A, 0xC8, 0x96, 0x05, 0x00, 0x00, 0x00] := by decide
/-- V-ENC-4. -/
theorem test_encode_v09 : fieldOf (exec .encode (atPorts (portsS2 0 1 64))) (·.readBytes 6 12) =
    some [0x64, 0x03, 0x01, 0x05, 0x07, 0x34, 0x12, 0xCD, 0xAB, 0x00, 0x00, 0x00] := by decide
/-- V-FIX-1. -/
theorem test_fixEnd_v09 : fieldOf (exec .fixEnd ((withBytes 10 [0x05, 0x03, 0x00, 0x01, 0x00, 0x00]).drivePorts (portsS1 0 0 64)))
    (·.readBytes 10 6) = some [0x05, 0x00, 0x03, 0x00, 0x01, 0x00] := by decide
/-- V-FIX-2. -/
theorem test_fixEnd_v10 : fieldOf (exec .fixEnd (withBytes 10 [0x05, 0x03, 0x00, 0x01, 0x00, 0x00]))
    (·.readBytes 10 6) = some [0x05, 0x03, 0x00, 0x01, 0x00, 0x00] := by decide
/-- V-HDR-2: the wrap. -/
theorem test_hdr_wrap : fieldOf (exec .hdr ((atPorts (portsS1 0 0 64)).setSeq 0xFF)) (fun t => (t.readBytes 0 6, t.seq)) =
    some ([0x55, 0x0C, 0xFF, 0x33, 0x44, 0xA6], 0x00) := by decide
/-- V-HDR-3. -/
theorem test_hdr_v10 : fieldOf (exec .hdr ((atPorts (portsS1 1 0 64)).setSeq 0x7F)) (fun t => (t.readBytes 0 6, t.seq)) =
    some ([0xFE, 0x0C, 0x7F, 0x33, 0x44, 0xA6], 0x80) := by decide
/-- V-REP-8: v0.9, sent, with the wrap. -/
theorem test_report_v09_sent : fieldOf (exec .report ((atPorts (portsS2 0 1 64)).setSeq 0xFF)) (fun t => (t.output, t.acc, t.seq, t.last)) =
    some ([[0x55, 0x0C, 0xFF, 0x33, 0x44, 0xA6, 0x64, 0x03, 0x01, 0x05, 0x07, 0x12, 0x34, 0xAB, 0xCD, 0x00, 0x00, 0x00, 0x93, 0xA9]],
      0xA993, 0x00, 0b01) := by decide
/-- V-REP-6: v1.0, dropped at `tx_space = 19`. -/
theorem test_report_v10_dropped : fieldOf (exec .report (atPorts (portsS1 1 0 19))) (fun t => (t.output, t.readBytes 18 2, t.seq, t.last)) =
    some ([], [0x68, 0x70], 0x01, 0b10) := by decide
/-- V-REP-1: the frame written from the spec's tables. -/
theorem test_wireFrame : wireFrame (portsS1 1 0 64) 0x00 =
    [0xFE, 0x0C, 0x00, 0x33, 0x44, 0xA6, 0x03, 0x00, 0x01, 0x00, 0x32, 0x0A, 0xC8, 0x96, 0x05, 0x00, 0x00, 0x00, 0x68, 0x70] := by decide

/-! ### The bus -/

/-- V-BUS-2. -/
theorem test_bus_read_acc : fieldOf (step (withAccess .read 0x008 .four)) (fun t => (t.readData, t.statusWord)) = some ([0xFFFF], 0) := by decide
/-- V-BUS-6. -/
theorem test_bus_write_last_byte : fieldOf (step (withAccess (.write 0xAB) 0x818 .four)) (·.readByte 262) = some 0xAB := by decide
/-- V-BUS-7. -/
theorem test_bus_unmapped : fieldOf (step (withAccess .read 0x81C .four)) (fun t => (t.readData, t.statusWord)) = some ([0], 0x8) := by decide
/-- V-BUS-12. -/
theorem test_bus_short_command : fieldOf (step (withAccess (.write 0x07000000) 0x000 .two)) (fun t => (t.statusWord, t.seq, t.output)) =
    some (0x8, 0x00, []) := by decide
/-- V-BUS-13. -/
theorem test_bus_readonly : fieldOf (step (withAccess (.write 0x55) 0x00C .four)) (fun t => (t.statusWord, t.seq)) = some (0x0, 0x00) := by decide
/-- V-DEC-1. -/
theorem test_bus_illegal_word : fieldOf (step (withAccess (.write 0x00000000) 0x000 .four)) (·.statusWord) = some 0x4 := by decide
/-- V-DEC-12: the bus checks come first. -/
theorem test_bus_priority : fieldOf (step (withAccess (.write 0x00000000) 0x001 .four)) (·.statusWord) = some 0x8 := by decide
theorem test_memory_canonical : Memory.wf (Memory.store (Memory.store [] 5 1) 3 2) = true ∧ Memory.wf [(3, 0), (3, 1)] = false ∧
    Memory.wf [(263, 0)] = false := by decide

/-! ### The assembler -/

/-- 30_encoding.md R88: one operand in its three spellings, and a comment. -/
theorem test_asm_operands :
    assembleText "CRCBYTE 49".toList = .ok (some (cmdWrite 0x02000031)) ∧
    assembleText "CRCBYTE 0x31 -- a byte".toList = .ok (some (cmdWrite 0x02000031)) ∧
    assembleText "CRCBYTE '1'".toList = .ok (some (cmdWrite 0x02000031)) := by decide
theorem test_asm_errors :
    assembleText "CRCBYTE 256".toList = .error .operandRange ∧ assembleText "HDR 1".toList = .error .operandCount ∧
    assembleText "NOP".toList = .error .form ∧ assembleText "-- nothing".toList = .ok none := by decide
/-- 95_test_vectors.md P3 line 14 and P4 line 3. -/
theorem test_asm_program :
    assembleProgram ["WRBUF 2, 0xA5".toList, "WR 0x001, 0x07000000".toList, "RD 0x004 => 1".toList] =
      .ok [{ kind := .write 0xA5, offset := 0x408, size := .four }, { kind := .write 0x07000000, offset := 0x001, size := .four },
        { kind := .read, offset := 0x004, size := .four }] := by decide

/-! ### Witnesses: a state and operands that meet the hypotheses of each statement that has some -/

theorem witness_ResetInputResetsEveryElement : (State.reset.setInputs [.reset]).inputs = .reset :: [] := rfl
theorem witness_IdleBlockHoldsItsState : State.reset.inputs = [] := rfl
theorem witness_PortChangeTouchesNoBlockState :
    (State.reset.setInputs [.ports (portsS1 1 0 64)]).inputs = .ports (portsS1 1 0 64) :: [] := rfl
theorem witness_StepRunsTheDecodedCommand :
    (withAccess (.write 0x03010015) 0x000 .four).inputs = .access { kind := .write 0x03010015, offset := 0x000, size := .four } :: [] ∧
    decode 0x03010015 = .ok (.crcAppS 0x15) := ⟨rfl, by decide⟩
theorem witness_LegalWordsAreTheEncodings : decode 0x020000FF = .ok (.crcByte 0xFF) := by decide
/-- Each way to be illegal, at a boundary, and a legal word. -/
theorem witness_IllegalWordsRaiseErrCmdAndNothingElse :
    (withAccess (.write 0x08000000) 0x000 .four).inputs = .access { kind := .write 0x08000000, offset := 0x000, size := .four } :: [] ∧
    (0x00000000 : Word).extractLsb' 24 8 = (0x00 : Byte) ∧ 0x08 ≤ ((0x08000000 : Word).extractLsb' 24 8).toNat ∧
    (0x03020000 : Word).extractLsb' 17 7 ≠ 0 ∧ (0x05000100 : Word).extractLsb' 8 8 ≠ 0 ∧
    ((0x01000001 : Word).extractLsb' 24 8 = (0x01 : Byte) ∧ (0x01000001 : Word).extractLsb' 0 8 ≠ 0) ∧
    ((0x02010031 : Word).extractLsb' 24 8 = (0x02 : Byte) ∧ (0x02010031 : Word).extractLsb' 16 1 ≠ 0) ∧
    ((0x03000015 : Word).extractLsb' 24 8 = (0x03 : Byte) ∧ (0x03000015 : Word).extractLsb' 16 1 = 0 ∧
      (0x03000015 : Word).extractLsb' 0 8 ≠ 0) ∧
    (fieldsOf 0x07000000).wf = true := ⟨rfl, by decide⟩
/-- The offset of each clause, the two ends of the window and of each unmapped range. -/
theorem witness_BusReadReturnsTheMappedWord :
    (withAccess .read 0x818 .four).inputs = .access { kind := .read, offset := 0x818, size := .four } :: [] ∧
    (0x000 : Offset).toNat = 0x000 ∧ (0x004 : Offset).toNat = 0x004 ∧ (0x008 : Offset).toNat = 0x008 ∧
    (0x00C : Offset).toNat = 0x00C ∧ (0x400 : Offset).toNat = 0x400 + 4 * 0 ∧ (0x818 : Offset).toNat = 0x400 + 4 * 262 ∧
    AccessSize.one ≠ .four ∧ (0x3FD : Offset).toNat % 4 ≠ 0 ∧ (0x010 : Offset).toNat = 0x010 ∧ (0x3FC : Offset).toNat = 0x3FC ∧
    (0x81C : Offset).toNat = 0x81C ∧ (0xFFC : Offset).toNat = 0xFFC := ⟨rfl, by decide⟩
theorem witness_BusWriteActsOnItsTargetAlone :
    (withAccess (.write 0xAB) 0x818 .four).inputs = .access { kind := .write 0xAB, offset := 0x818, size := .four } :: [] ∧
    (0x000 : Offset).toNat = 0x000 ∧ (0x00C : Offset).toNat = 0x00C ∧ (0x400 : Offset).toNat = 0x400 + 4 * 0 ∧
    (0x818 : Offset).toNat = 0x400 + 4 * 262 ∧ AccessSize.two ≠ .four ∧ (0x001 : Offset).toNat % 4 ≠ 0 ∧
    (0x010 ≤ (0x3FC : Offset).toNat ∧ (0x3FC : Offset).toNat ≤ 0x3FC) ∧
    (0x81C ≤ (0x81C : Offset).toNat ∧ (0x81C : Offset).toNat ≤ 0xFFC) := ⟨rfl, by decide⟩
theorem witness_WindowWriteReadsBack :
    (262 : Nat) ≤ 262 ∧ (0x818 : Offset).toNat = 0x400 + 4 * 262 ∧
    (State.reset.setInputs [.access { kind := .write 0x12345678, offset := 0x818, size := .four },
      .access { kind := .read, offset := 0x818, size := .four }]).inputs =
      .access { kind := .write 0x12345678, offset := 0x818, size := .four } ::
        .access { kind := .read, offset := 0x818, size := .four } :: [] := ⟨by decide, by decide, rfl⟩
theorem witness_ReadsAreIdempotent :
    (State.reset.setInputs [.access { kind := .read, offset := 0x00C, size := .four },
      .access { kind := .read, offset := 0x00C, size := .four }]).inputs =
      .access { kind := .read, offset := 0x00C, size := .four } :: .access { kind := .read, offset := 0x00C, size := .four } :: [] ∧
    ((0x00C : Offset).toNat % 4 = 0 ∧ (0x00C : Offset).toNat < 0x010) ∧
    ((0x818 : Offset).toNat % 4 = 0 ∧ 0x400 ≤ (0x818 : Offset).toNat ∧ (0x818 : Offset).toNat ≤ 0x818) := ⟨rfl, by decide⟩
theorem witness_EveryStepKeepsTheInvariant :
    ∃ s t, s.Inv ∧ step s = .next t ∧ t.readByte 262 = 0xAB :=
  ⟨withAccess (.write 0xAB) 0x818 .four, _, by decide, rfl, by decide⟩
theorem witness_ErrorBitsStayUntilReset :
    ∃ s t, step s = .next t ∧ (∀ rest, s.inputs ≠ .reset :: rest) ∧ s.errCmd = true ∧ s.errBus = true :=
  ⟨((withAccess (.write 0) 0x404 .four).raise .errCmd).raise .errBus, _, rfl, (by intro rest h; cases h), rfl, rfl⟩
theorem witness_OneAccessRaisesAtMostOneError :
    ∃ s t, step s = .next t ∧ s.clean ∧ t.errBus = true := ⟨withAccess (.write 0) 0x001 .four, _, rfl, by decide, rfl⟩
theorem witness_OnlyReportWritesLast :
    ∃ s t, step s = .next t ∧ (∀ rest, s.inputs ≠ .reset :: rest) ∧ t.last ≠ s.last :=
  ⟨withAccess (.write 0x07000000) 0x000 .four, _, rfl, (by intro rest h; cases h), by decide⟩
theorem witness_OnlyHeadersAdvanceSeq :
    ∃ s t, step s = .next t ∧ (∀ rest, s.inputs ≠ .reset :: rest) ∧ t.seq ≠ s.seq :=
  ⟨withAccess (.write 0x05000000) 0x000 .four, _, rfl, (by intro rest h; cases h), by decide⟩
theorem witness_OnlyChecksumCommandsWriteAcc :
    ∃ s t, step s = .next t ∧ (∀ rest, s.inputs ≠ .reset :: rest) ∧ t.acc ≠ s.acc :=
  ⟨withAccess (.write 0x02000031) 0x000 .four, _, rfl, (by intro rest h; cases h), by decide⟩
theorem witness_OnlyReportDrivesTheTransport :
    ∃ s t, step s = .next t ∧ t.output ≠ s.output := ⟨withAccess (.write 0x07000000) 0x000 .four, _, rfl, by decide⟩
/-- One witness for each kind of command; the ports that a command does not read differ. -/
theorem witness_CommandsReadOnlyTheirPorts :
    (portsS2 1 0 19).version = (atPorts (portsS1 1 1 64)).ports.version ∧
    portsS1 1 0 19 = { (atPorts (portsS1 1 0 64)).ports with txSpace := (portsS1 1 0 19).txSpace } ∧
    portsS1 1 0 64 = (atPorts (portsS1 1 0 64)).ports := by decide
theorem witness_CrcAppIndicesLieInTheBuffer :
    7 ≤ 7 + (withBytes 1 [0xFF]).payloadLen ∧ (withBytes 1 [0xFF]).readByte 1 = 0xFF := by decide
/-- Two states that agree on the covered bytes and differ in `PBUF[0]`, `ACC` and `SEQ`. -/
theorem witness_CrcAppDependsOnCoveredBytesAlone :
    ∃ s s' : State, (∀ k, 1 ≤ k → k ≤ 5 + (s.readByte 1).toNat → s'.readByte k = s.readByte k) ∧
      s'.readByte 0 ≠ s.readByte 0 ∧ s'.acc ≠ s.acc ∧ s'.seq ≠ s.seq := by
  refine ⟨withBytes 0 [0xFE, 0, 7, 1, 2, 3], ((withBytes 0 [0x55, 0, 7, 1, 2, 3]).setAcc 0).setSeq 9, ?_, by decide, by decide, by decide⟩
  intro k h1 h2
  have h5 : k ≤ 5 := h2
  interval_cases k <;> decide
theorem witness_EncodeWritesTheV10Layout : (atPorts (portsS1 1 0 64)).ports.version = 1 := by decide
theorem witness_EncodeWritesTheV09Layout : (atPorts (portsS2 0 1 64)).ports.version = 0 := by decide
theorem witness_FixEndSwapsTheLegacyCounters :
    (atPorts (portsS1 0 0 64)).ports.version = 0 ∧ (atPorts (portsS1 1 0 64)).ports.version = 1 := by decide
theorem witness_FixEndRoundTripRestoresTheCounters : (atPorts (portsS2 0 1 64)).ports.version = 0 := by decide
theorem witness_SequenceNumberAdvancesSentOrDropped : Instr.report = .hdr ∨ Instr.report = .report := by decide
theorem witness_ReportSendsTheComposedFrame : 20 ≤ (atPorts (portsS1 1 0 20)).ports.txSpace.toNat := by decide
theorem witness_ReportDropsWithoutRoom : (atPorts (portsS1 1 0 19)).ports.txSpace.toNat < 20 := by decide
theorem witness_PseudoInstructionsExpand : (262 : Nat) ≤ 262 ∧ (255 : Nat) < 256 := by decide
theorem witness_CommandLinesAssembleToTheirWords :
    Mnemonic.crcByte.takesByte = true ∧ (255 : Nat) ≤ 255 ∧ Mnemonic.report.takesByte = false ∧ 255 < (256 : Nat) := by decide

end Sys2Proof.Tests
end

/-! PROOFS. The state of the block (10_state.md): what a step can do to its registers, said once; which commands change which
register; and which ports and status bits a command does not depend on. -/

section
namespace Sys2Proof.Machine

/-! ### The word that a decoded command came from -/

theorem eq_of_fieldsExceptImm8 {f : CmdFields} {opc : BitVec 8} {rsv1 : BitVec 7} {sf : BitVec 1} {rsv0 : BitVec 8}
    (hopc : f.opc = opc) (hrsv1 : f.rsv1 = rsv1) (hs : f.s = sf) (hrsv0 : f.rsv0 = rsv0) :
    f = ⟨opc, rsv1, sf, rsv0, f.imm8⟩ := by
  subst hopc hrsv1 hs hrsv0
  rfl

/-- The rows of 30_encoding.md R83 without an operand: legal fields are those that the encoder gives. -/
theorem eq_encodeFields_of_noOperand {f : CmdFields} {i j : Instr} (hrsv : f.rsv1 = 0 ∧ f.rsv0 = 0)
    (hrow : encodeFields i = ⟨f.opc, 0, 0, 0, 0⟩) (h : noOperand f i = .ok j) : f = encodeFields j := by
  obtain ⟨opc, rsv1, sf, rsv0, imm8⟩ := f
  obtain ⟨rfl, rfl⟩ := hrsv
  obtain ⟨rfl, rfl, rfl⟩ := noOperand_ok.mp h
  exact hrow.symm

/-- Legal fields are those that the encoder gives the command (30_encoding.md R83, R84). -/
theorem eq_encodeFields_of_decodeFields {f : CmdFields} {i : Instr} (h : decodeFields f = .ok i) :
    f = encodeFields i := by
  unfold decodeFields at h
  split_ifs at h with hrsv h1 h2 hs h3 hs h4 h5 h6 h7
  all_goals replace hrsv : f.rsv1 = 0 ∧ f.rsv0 = 0 := by simpa only [ne_eq, not_or, not_not] using hrsv
  · exact eq_encodeFields_of_noOperand hrsv (by rw [h1]; rfl) h
  · cases h
    exact eq_of_fieldsExceptImm8 h2 hrsv.1 hs hrsv.2
  · exact eq_encodeFields_of_noOperand hrsv (by rw [h3]; rfl) h
  · cases h
    have hs1 : f.s = 1 := (BitVec.eq_zero_or_eq_one f.s).resolve_left hs
    exact eq_of_fieldsExceptImm8 h3 hrsv.1 hs1 hrsv.2
  · exact eq_encodeFields_of_noOperand hrsv (by rw [h4]; rfl) h
  · exact eq_encodeFields_of_noOperand hrsv (by rw [h5]; rfl) h
  · exact eq_encodeFields_of_noOperand hrsv (by rw [h6]; rfl) h
  · exact eq_encodeFields_of_noOperand hrsv (by rw [h7]; rfl) h

/-- A legal word is the one word of its command (30_encoding.md R83, R86). -/
theorem eq_encode_of_decode {w : Word} {i : Instr} (h : decode w = .ok i) : w = encode i := by
  rw [encode, ← eq_encodeFields_of_decodeFields h, wordOf_fieldsOf]

/-- Bits 31..24 of a command's word are its opcode (30_encoding.md R81). -/
theorem encode_opcode (i : Instr) : (encode i).extractLsb' 24 8 = (encodeFields i).opc :=
  congrArg CmdFields.opc (fieldsOf_wordOf (encodeFields i))

/-- Only offset 0 of the register space is `CMD` (20_memory.md R52). -/
theorem eq_zero_of_targetOf_cmd {off : Offset} (h : targetOf off = some .cmd) : off = 0 := by
  simp only [targetOf] at h
  split_ifs at h with h0
  · exact BitVec.eq_of_toNat_eq h0
  all_goals cases h

/-- Only the aligned 4-byte write at offset 0 writes `CMD` (10_state.md R34). -/
theorem eq_cmdWrite_of_decodeAccess {a : BusAccess} {w : Word} (hk : a.kind = .write w)
    (h : decodeAccess a = .ok .cmd) : a = cmdWrite w := by
  obtain ⟨k, off, sz⟩ := a
  obtain rfl : k = .write w := hk
  cases sz with
  | one => cases h
  | two => cases h
  | four =>
    simp only [decodeAccess] at h
    split_ifs at h
    split at h
    case h_1 t ht =>
      cases h
      rw [cmdWrite, eq_zero_of_targetOf_cmd ht]
    case h_2 => cases h

/-! ### What a step can do to the registers -/

/-- The block's registers and its output are unchanged and the buffer's list stays canonical: all that a step other than
a command or a reset does to them (bus reads, window writes, errors, port changes, idling). -/
structure State.RegistersKept (s t : State) : Prop where
  seq : t.seq = s.seq
  acc : t.acc = s.acc
  last : t.last = s.last
  output : t.output = s.output
  wf : Memory.wf s.pbuf = true → Memory.wf t.pbuf = true

theorem State.writeByte_registersKept (s : State) (i : Nat) (v : Byte) : s.RegistersKept (s.writeByte i v) :=
  ⟨by simp, by simp, by simp, by simp, s.writeByte_wf i v⟩

/-- A bus access runs the legal command that it writes to `CMD`, or leaves the registers. -/
theorem busAccess_next_cases {a : BusAccess} {s t : State} (h : busAccess a s = .next t) :
    (∃ w i, a = cmdWrite w ∧ decode w = .ok i ∧ exec i s = .next t) ∨ s.RegistersKept t := by
  obtain ⟨_, _, _, hb⟩ | ⟨_, _, _, hb⟩ | ⟨w, hk, hd, hb⟩ | ⟨w, i, _, _, hb⟩ | ⟨_, _, _, _, hb⟩ | ⟨_, _, _, _, hb⟩ :=
    busAccess_cases a s <;> rw [hb] at h
  · cases h; exact .inr ⟨rfl, rfl, rfl, rfl, id⟩
  · cases h; exact .inr ⟨rfl, rfl, rfl, rfl, id⟩
  · obtain ⟨i, hi, he⟩ | ⟨_, _, he⟩ := executeCommand_cases w s <;> rw [he] at h
    · exact .inl ⟨w, i, eq_cmdWrite_of_decodeAccess hk hd, hi, h⟩
    · cases h; exact .inr ⟨rfl, rfl, rfl, rfl, id⟩
  · cases h; exact .inr (s.writeByte_registersKept _ _)
  · cases h; exact .inr ⟨rfl, rfl, rfl, rfl, id⟩
  · cases h; exact .inr ⟨rfl, rfl, rfl, rfl, id⟩

/-- A step runs the legal command of a `CMD` write, or resets the block, or leaves the registers. -/
theorem step_next_cases {s t : State} (h : step s = .next t) :
    (∃ w i rest, s.inputs = .access (cmdWrite w) :: rest ∧ decode w = .ok i ∧
      exec i (s.setInputs rest) = .next t) ∨
    (∃ rest, s.inputs = .reset :: rest ∧ t = (s.setInputs rest).resetBlock) ∨
    s.RegistersKept t := by
  obtain ⟨_, hs⟩ | ⟨a, rest, ha, hs⟩ | ⟨p, rest, _, hs⟩ | ⟨rest, hr, hs⟩ := step_cases s <;> rw [hs] at h
  · cases h; exact .inr (.inr ⟨rfl, rfl, rfl, rfl, id⟩)
  · obtain ⟨w, i, rfl, hi, he⟩ | hkept := busAccess_next_cases h
    · exact .inl ⟨w, i, rest, ha, hi, he⟩
    · exact .inr (.inr ⟨hkept.seq, hkept.acc, hkept.last, hkept.output, hkept.wf⟩)
  · cases h; exact .inr (.inr ⟨rfl, rfl, rfl, rfl, id⟩)
  · cases h; exact .inr (.inl ⟨rest, hr, rfl⟩)

/-! ### What a command does to the registers -/

/-- Every command completes (60_exceptions.md R239). -/
theorem exec_completes (i : Instr) (s : State) : ∃ t, exec i s = .next t := by
  cases i <;> exact ⟨_, rfl⟩

/-- No command drives the input ports (10_state.md R24). -/
theorem exec_ports {i : Instr} {s t : State} (h : exec i s = .next t) : t.ports = s.ports := by
  cases i <;> cases h <;> simp

/-- A flush leaves SENT or DROPPED, never 0b11 (10_state.md R31). -/
theorem State.flush_last_ne (e : Ports) (s : State) : (s.flush e).last ≠ 0b11 := by
  rw [State.flush_last]
  split <;> decide

theorem exec_keeps_inv {i : Instr} {s t : State} (hs : s.Inv) (h : exec i s = .next t) : t.Inv := by
  obtain ⟨hwf, hlast⟩ := hs
  cases i <;> cases h
  case crcInit | crcByte => exact ⟨hwf, hlast⟩
  case crcApp | crcAppS => exact ⟨State.crcAppend_wf _ _ hwf, by simpa using hlast⟩
  case fixEnd => exact ⟨State.fixEndianness_wf _ _ hwf, by simpa using hlast⟩
  case hdr => exact ⟨State.header_wf _ _ hwf, by simpa using hlast⟩
  case encode => exact ⟨State.encodePayload_wf _ _ hwf, by simpa using hlast⟩
  case report => exact ⟨by simpa using State.compose_wf _ _ hwf, State.flush_last_ne _ _⟩

/-- HDR and REPORT advance `SEQ` by one; no other command changes it (10_state.md R28). -/
theorem exec_seq {i : Instr} {s t : State} (h : exec i s = .next t) :
    t.seq = if i = .hdr ∨ i = .report then s.seq + 1 else s.seq := by
  cases i <;> cases h <;> simp

/-- `ACC` is written by the commands of the checksum engine and REPORT alone (10_state.md R29). -/
theorem exec_keeps_acc {i : Instr} {s t : State} (hi : i = .fixEnd ∨ i = .hdr ∨ i = .encode)
    (h : exec i s = .next t) : t.acc = s.acc := by
  obtain rfl | rfl | rfl := hi <;> cases h <;> simp

/-- Commands other than REPORT emit nothing; REPORT does what its flow-control gate says (43_composer.md R194). -/
theorem exec_output {i : Instr} {s t : State} (h : exec i s = .next t) :
    t.output = s.output ∨
      i = .report ∧ txFits s.ports = true ∧ ∃ frame, t.output = s.output ++ [frame] ∧ frame.length = 20 := by
  cases i <;> cases h
  case report =>
    rw [State.sample_eq_ports, State.flush_output]
    split
    · have hout : (s.compose s.ports).output = s.output := State.compose_output _ _
      exact .inr ⟨rfl, ‹_›, _, congrArg (· ++ _) hout, State.readBytes_length _ _ _⟩
    · exact .inl (by simp)
  all_goals exact .inl (by simp)

theorem txFits_iff (e : Ports) : txFits e = true ↔ 20 ≤ e.txSpace.toNat := by
  simp [txFits, Config.txThreshold, BitVec.le_def]

/-! ### What the registers keep over a step -/

/-- Settles O2: the list is empty and `LAST` is 0b00. -/
theorem resetMeetsTheInvariant : Obligations.ResetMeetsTheInvariant :=
  ⟨Memory.wf_reset, by decide⟩

/-- Settles O17: a command keeps the invariant, a reset empties the list and clears `LAST`, and no other step touches
`LAST` or leaves the buffer. -/
theorem everyStepKeepsTheInvariant : Obligations.EveryStepKeepsTheInvariant := by
  intro s t hs h
  obtain ⟨w, i, rest, _, _, he⟩ | ⟨rest, _, rfl⟩ | hkept := step_next_cases h
  · exact exec_keeps_inv (s := s.setInputs rest) hs he
  · exact ⟨Memory.wf_nil, by simp⟩
  · obtain ⟨hwf, hlast⟩ := hs
    exact ⟨hkept.wf hwf, hkept.last ▸ hlast⟩

/-- Settles O23: `SEQ` can change by a command alone, and then by HDR or REPORT, whose words are fixed. -/
theorem onlyHeadersAdvanceSeq : Obligations.OnlyHeadersAdvanceSeq := by
  intro s t h hreset hne
  obtain ⟨w, i, rest, hin, hw, he⟩ | ⟨rest, hr, _⟩ | hkept := step_next_cases h
  · have hseq := exec_seq he
    obtain rfl := eq_encode_of_decode hw
    split_ifs at hseq with hi
    · refine ⟨hseq, encode i, rest, ?_, hin⟩
      obtain rfl | rfl := hi <;> decide
    · exact absurd hseq hne
  · exact absurd hr (hreset rest)
  · exact absurd hkept.seq hne

/-- Settles O24: `ACC` can change by a command alone, and the other commands' opcodes are 1, 2, 3 and 7. -/
theorem onlyChecksumCommandsWriteAcc : Obligations.OnlyChecksumCommandsWriteAcc := by
  intro s t h hreset hne
  obtain ⟨w, i, rest, hin, hw, he⟩ | ⟨rest, hr, _⟩ | hkept := step_next_cases h
  · obtain rfl := eq_encode_of_decode hw
    refine ⟨encode i, rest, hin, ?_⟩
    rw [encode_opcode]
    have hother : ¬ (i = .fixEnd ∨ i = .hdr ∨ i = .encode) := by
      intro hi
      exact hne (exec_keeps_acc (s := s.setInputs rest) hi he)
    cases i <;> simp [encodeFields] at hother ⊢
  · exact absurd hr (hreset rest)
  · exact absurd hkept.acc hne

/-- Settles O25: the output can change by a command alone (a reset keeps it), and then by a REPORT with room. -/
theorem onlyReportDrivesTheTransport : Obligations.OnlyReportDrivesTheTransport := by
  intro s t h hne
  obtain ⟨w, i, rest, hin, hw, he⟩ | ⟨rest, _, rfl⟩ | hkept := step_next_cases h
  · obtain hsame | ⟨rfl, hfits, hframe⟩ := exec_output he
    · exact absurd hsame hne
    · obtain rfl := eq_encode_of_decode hw
      exact ⟨⟨rest, hin⟩, (txFits_iff _).mp hfits, hframe⟩
  · exact absurd rfl hne
  · exact absurd hkept.output hne

/-- Settles O5: the event is taken off the list and drives the ports. -/
theorem portChangeTouchesNoBlockState : Obligations.PortChangeTouchesNoBlockState := by
  intro s p rest h
  rw [step_input s _ rest h]
  rfl

/-! ### The STATUS word -/

/-- Each bit of the `STATUS` word (10_state.md R30). -/
theorem State.statusWord_getLsbD (s : State) (n : Nat) :
    s.statusWord.getLsbD n =
      if n < 2 then s.last.getLsbD n else if n = 2 then s.errCmd else decide (n = 3) && s.errBus := by
  simp only [State.statusWord, BitVec.getLsbD_setWidth, BitVec.getLsbD_append, BitVec.getLsbD_ofBool]
  match n with
  | 0 | 1 | 2 | 3 => simp
  | n + 4 => simp

/-- Settles O21: each part of the word is read off bit by bit. -/
theorem statusWordHasItsLayout : Obligations.StatusWordHasItsLayout := by
  intro s
  refine ⟨?_, s.statusWord_getLsbD 2, s.statusWord_getLsbD 3, ?_⟩
  · apply BitVec.eq_of_getLsbD_eq
    intro n hn
    simp [s.statusWord_getLsbD, hn]
  · apply BitVec.eq_of_getLsbD_eq
    intro n hn
    rw [BitVec.getLsbD_extractLsb', s.statusWord_getLsbD, if_neg (by omega), if_neg (by omega)]
    simp [show 4 + n ≠ 3 by omega]

/-! ### What a command does not depend on -/

/-- `f` replaces only parts of the state that the operations on `PBUF`, `SEQ` and `ACC` neither read nor write. -/
structure Unread (f : State → State) : Prop where
  readByte : ∀ s i, (f s).readByte i = s.readByte i
  seq : ∀ s, (f s).seq = s.seq
  acc : ∀ s, (f s).acc = s.acc
  writeByte : ∀ s i v, (f s).writeByte i v = f (s.writeByte i v)
  setSeq : ∀ s v, (f s).setSeq v = f (s.setSeq v)
  setAcc : ∀ s v, (f s).setAcc v = f (s.setAcc v)

namespace Unread

variable {f : State → State} (hf : Unread f)
include hf

theorem writeBytes (s : State) (i : Nat) (vs : List Byte) : (f s).writeBytes i vs = f (s.writeBytes i vs) := by
  induction vs generalizing i s with
  | nil => rfl
  | cons v vs ih => rw [State.writeBytes, hf.writeByte, ih, State.writeBytes]

theorem crcAppend (seed : Option Byte) (s : State) : (f s).crcAppend seed = f (s.crcAppend seed) := by
  cases seed <;>
    simp only [State.crcAppend, State.payloadLen, State.coveredBytes, State.readBytes, hf.readByte, hf.writeByte,
      hf.setAcc]

theorem fixEndianness (e : Ports) (s : State) : (f s).fixEndianness e = f (s.fixEndianness e) := by
  unfold State.fixEndianness
  split
  · rfl
  · simp only [State.swap2, hf.readByte, hf.writeByte]

theorem encodePayload (e : Ports) (s : State) : (f s).encodePayload e = f (s.encodePayload e) :=
  hf.writeBytes s _ _

theorem header (e : Ports) (s : State) : (f s).header e = f (s.header e) := by
  rw [State.header, hf.writeBytes, hf.setSeq, hf.seq, State.header]

theorem compose (e : Ports) (s : State) : (f s).compose e = f (s.compose e) := by
  simp only [State.compose, hf.header, hf.encodePayload, hf.fixEndianness, hf.crcAppend]

end Unread

/-- The two samples agree on the ports that the command reads (10_state.md R24). -/
def readsAlike (i : Instr) (p q : Ports) : Prop :=
  match i with
  | .crcInit | .crcByte _ | .crcApp | .crcAppS _ => True
  | .fixEnd | .hdr => p.version = q.version
  | .encode => p = { q with txSpace := p.txSpace }
  | .report => p = q

theorem readsAlike_refl (i : Instr) (p : Ports) : readsAlike i p p := by
  cases i <;> simp [readsAlike]

theorem isV10_congr {p q : Ports} (h : p.version = q.version) : isV10 p = isV10 q := by
  rw [isV10, isV10, h]

/-- Every command but REPORT commutes with a replacement of what it does not read. -/
theorem Unread.exec_comm {f : State → State} (hf : Unread f) {i : Instr} {s : State}
    (hports : readsAlike i (f s).ports s.ports) (hi : i ≠ .report) :
    ∃ t, exec i s = .next t ∧ exec i (f s) = .next (f t) := by
  cases i with
  | crcInit => exact ⟨_, rfl, by rw [exec_crcInit, hf.setAcc]⟩
  | crcByte b => exact ⟨_, rfl, by rw [exec_crcByte, hf.setAcc, hf.acc]⟩
  | crcApp => exact ⟨_, rfl, by rw [exec_crcApp, hf.crcAppend]⟩
  | crcAppS b => exact ⟨_, rfl, by rw [exec_crcAppS, hf.crcAppend]⟩
  | fixEnd =>
    have hsame : (f s).fixEndianness (f s).ports = (f s).fixEndianness s.ports := by
      simp only [State.fixEndianness, isV10_congr hports]
    exact ⟨_, rfl, by rw [exec_fixEnd, hsame, hf.fixEndianness]; rfl⟩
  | hdr =>
    have hsame : (f s).header (f s).ports = (f s).header s.ports := by
      simp only [State.header, headerBytes, isV10_congr hports]
    exact ⟨_, rfl, by rw [exec_hdr, hsame, hf.header]; rfl⟩
  | encode =>
    have hsame : payloadBytes (f s).ports = payloadBytes s.ports := by
      rw [show (f s).ports = { s.ports with txSpace := (f s).ports.txSpace } from hports]
      rfl
    exact ⟨_, rfl, by rw [exec_encode, State.encodePayload, hsame, hf.writeBytes]; rfl⟩
  | report => exact absurd rfl hi

theorem drivePorts_unread (p : Ports) : Unread (State.drivePorts p) where
  readByte _ _ := rfl
  seq _ := rfl
  acc _ := rfl
  writeByte s i v := by unfold State.writeByte; split <;> rfl
  setSeq _ _ := rfl
  setAcc _ _ := rfl

/-- Settles O27: REPORT reads every port, and the other commands commute with a change of the ports that they do not
read. -/
theorem commandsReadOnlyTheirPorts : Obligations.CommandsReadOnlyTheirPorts := by
  intro i s p hp
  by_cases hi : i = .report
  · subst hi
    obtain rfl : p = s.ports := hp
    obtain ⟨t, ht⟩ := exec_completes .report s
    have hsame : t = { t with ports := s.ports } := by rw [← exec_ports ht]
    exact ⟨t, ht, ht.trans (congrArg _ hsame)⟩
  · have hports : readsAlike i (s.drivePorts p).ports s.ports := by cases i <;> exact hp
    obtain ⟨t, ht, hcomm⟩ := (drivePorts_unread p).exec_comm hports hi
    exact ⟨t, ht, hcomm⟩

/-- `STATUS` holds the given values (10_state.md R30). -/
def State.withStatus (l : BitVec 2) (c b : Bool) (s : State) : State := { s with last := l, errCmd := c, errBus := b }

theorem withStatus_unread (l : BitVec 2) (c b : Bool) : Unread (State.withStatus l c b) where
  readByte _ _ := rfl
  seq _ := rfl
  acc _ := rfl
  writeByte s i v := by unfold State.writeByte; split <;> rfl
  setSeq _ _ := rfl
  setAcc _ _ := rfl

/-- A flush writes `LAST` itself and leaves the error bits as they stand. -/
theorem State.flush_withStatus (e : Ports) (l : BitVec 2) (c b : Bool) (s : State) :
    (s.withStatus l c b).flush e = (s.flush e).withStatus (s.flush e).last c b := by
  unfold State.flush
  split <;> rfl

/-- Settles O26: REPORT composes alike whatever `STATUS` holds and its flush writes `LAST`; the other commands commute with
every replacement of `STATUS`. -/
theorem statusInfluencesNoCommand : Obligations.StatusInfluencesNoCommand := by
  intro i s l c b
  have hf := withStatus_unread l c b
  by_cases hi : i = .report
  · subst hi
    refine ⟨_, exec_report s, ?_⟩
    calc exec .report (s.withStatus l c b)
        = .next (((s.withStatus l c b).compose s.ports).flush s.ports) := rfl
      _ = .next (((s.compose s.ports).withStatus l c b).flush s.ports) := by rw [hf.compose]
      _ = _ := by rw [State.flush_withStatus]; rfl
  · obtain ⟨t, ht, hcomm⟩ := hf.exec_comm (readsAlike_refl i s.ports) hi
    exact ⟨t, ht, by rw [if_neg hi]; exact hcomm⟩

end Sys2Proof.Machine
end

/-! PROOFS. The host bus (20_memory.md): the step that performs a read and the step that performs a write, said once for each
answer of the address map; what each offset reads as and writes; and reading back. -/

section
namespace Sys2Proof.Machine

/-! ### Which accesses the address map answers -/

/-- `CMD` is mapped for reads too (20_memory.md R52). -/
theorem decodeAccess_cmd (k : AccessKind) : decodeAccess { kind := k, offset := 0x000, size := .four } = .ok .cmd := rfl

/-- The map's answer at the offset `o` is its answer at every offset with that number. -/
theorem decodeAccess_of_toNat_eq {k : AccessKind} {sz : AccessSize} {off o : Offset} {t : Target}
    (hd : decodeAccess { kind := k, offset := o, size := sz } = .ok t) (hn : off.toNat = o.toNat) :
    decodeAccess { kind := k, offset := off, size := sz } = .ok t :=
  BitVec.eq_of_toNat_eq hn ▸ hd

/-- An aligned 4-byte access outside the unmapped ranges of 20_memory.md R57 has a target. -/
theorem decodeAccess_mapped (k : AccessKind) {off : Offset} (halign : off.toNat % 4 = 0)
    (hmap : off.toNat < 0x010 ∨ 0x400 ≤ off.toNat ∧ off.toNat ≤ 0x818) :
    ∃ t, decodeAccess { kind := k, offset := off, size := .four } = .ok t := by
  obtain hreg | hwin := hmap
  · obtain h0 | h4 | h8 | hC :
        off.toNat = 0x000 ∨ off.toNat = 0x004 ∨ off.toNat = 0x008 ∨ off.toNat = 0x00C := by omega
    · exact ⟨_, decodeAccess_of_toNat_eq (decodeAccess_cmd k) h0⟩
    · exact ⟨_, decodeAccess_of_toNat_eq (decodeAccess_status k) h4⟩
    · exact ⟨_, decodeAccess_of_toNat_eq (decodeAccess_acc k) h8⟩
    · exact ⟨_, decodeAccess_of_toNat_eq (decodeAccess_seq k) hC⟩
  · obtain ⟨i, hi⟩ : ∃ i, off.toNat = 0x400 + 4 * i := ⟨(off.toNat - 0x400) / 4, by omega⟩
    have hcap : i < Config.pbufCap := show i < 263 by omega
    exact ⟨_, decodeAccess_window k off i hcap hi⟩

/-! ### The step of a bus access -/

/-- What a word reads as does not depend on what waits outside or on what was read before. -/
theorem readTarget_of_records (t : Target) (s : State) (l : List Input) (d : List Word) :
    readTarget t { s with inputs := l, readData := d } = readTarget t s := by
  cases t <;> rfl

section
variable {s : State} {a : BusAccess} {rest : List Input} (h : s.inputs = .access a :: rest)
include h

theorem step_read_ok {t : Target} (hk : a.kind = .read) (hd : decodeAccess a = .ok t) :
    step s = .next { s with inputs := rest, readData := s.readData ++ [readTarget t s] } := by
  rw [step_input s _ rest h, ← readTarget_of_records t s rest s.readData]
  exact busAccess_read_ok a _ t hk hd

theorem step_read_error {r : BusReject} (hk : a.kind = .read) (hd : decodeAccess a = .error r) :
    step s = .next { s with inputs := rest, errBus := true, readData := s.readData ++ [0] } :=
  (step_input s _ rest h).trans (busAccess_read_error a _ r hk hd)

theorem step_write_ok {w : Word} {t : Target} (hk : a.kind = .write w) (hd : decodeAccess a = .ok t) :
    step s = writeTarget t w { s with inputs := rest } :=
  (step_input s _ rest h).trans (busAccess_write_ok a w _ t hk hd)

theorem step_write_error {w : Word} {r : BusReject} (hk : a.kind = .write w) (hd : decodeAccess a = .error r) :
    step s = .next { s with inputs := rest, errBus := true } :=
  (step_input s _ rest h).trans (busAccess_write_error a w _ r hk hd)

end

/-- A window write stores its byte, keeps every other byte of `PBUF`, and touches nothing else (20_memory.md R58, R59). -/
theorem State.writeByte_frame (s : State) {i : Nat} (hi : i < Config.pbufCap) (v : Byte) :
    (s.writeByte i v).readByte i = v ∧ s.bytesKept (s.writeByte i v) (fun j => j = i) ∧
      (s.writeByte i v).acc = s.acc ∧ (s.writeByte i v).seq = s.seq ∧ s.statusKept (s.writeByte i v) ∧
      s.outsideKept (s.writeByte i v) := by
  refine ⟨s.readByte_writeByte_same i v hi, fun j hj => s.readByte_writeByte_other i j v hj, ?_, ?_, ?_, ?_⟩
  · simp
  · simp
  · simp [State.statusKept]
  · simp [State.outsideKept]

/-! ### What the bus reads and writes -/

/-- Settles O12: each mapped offset has its target, whose word a legal read returns; a refused read returns 0. -/
theorem busReadReturnsTheMappedWord : Obligations.BusReadReturnsTheMappedWord := by
  intro s off sz rest h returns n
  have mapped {t : Target} (hd : decodeAccess { kind := .read, offset := off, size := sz } = .ok t) :
      returns (readTarget t s) := step_read_ok h rfl hd
  refine ⟨?cmd, ?status, ?acc, ?seq, ?window, ?refused⟩
  case cmd =>
    rintro rfl hn
    exact mapped (decodeAccess_of_toNat_eq (decodeAccess_cmd _) hn)
  case status =>
    rintro rfl hn
    exact mapped (decodeAccess_of_toNat_eq (decodeAccess_status _) hn)
  case acc =>
    rintro rfl hn
    exact mapped (decodeAccess_of_toNat_eq (decodeAccess_acc _) hn)
  case seq =>
    rintro rfl hn
    exact mapped (decodeAccess_of_toNat_eq (decodeAccess_seq _) hn)
  case window =>
    rintro i hi rfl hn
    exact mapped (decodeAccess_window _ off i (Nat.lt_succ_of_le hi) hn)
  case refused =>
    intro hbad
    obtain ⟨r, hr⟩ := decodeAccess_refused { kind := .read, offset := off, size := sz } hbad
    exact step_read_error h rfl hr

/-- Settles O13: a write acts on its offset's target, a window write being one `writeByte`; a refused write raises ERR_BUS. -/
theorem busWriteActsOnItsTargetAlone : Obligations.BusWriteActsOnItsTargetAlone := by
  intro s w off sz rest h n
  refine ⟨?cmd, ?readOnly, ?window, ?refused⟩
  case cmd =>
    rintro rfl hn
    exact step_write_ok h rfl (decodeAccess_of_toNat_eq (decodeAccess_cmd _) hn)
  case readOnly =>
    rintro rfl (hn | hn | hn)
    · exact step_write_ok h rfl (decodeAccess_of_toNat_eq (decodeAccess_status _) hn)
    · exact step_write_ok h rfl (decodeAccess_of_toNat_eq (decodeAccess_acc _) hn)
    · exact step_write_ok h rfl (decodeAccess_of_toNat_eq (decodeAccess_seq _) hn)
  case window =>
    rintro i hi rfl hn
    have hcap : i < Config.pbufCap := Nat.lt_succ_of_le hi
    obtain ⟨hbyte, hbytes, hacc, hseq, hstatus, hports, hinputs, houtput, hread, hdraw⟩ :=
      State.writeByte_frame { s with inputs := rest } hcap (w.extractLsb' 0 8)
    exact ⟨_, step_write_ok h rfl (decodeAccess_window _ off i hcap hn),
      hbyte, hbytes, hacc, hseq, hstatus, hinputs, hports, houtput, hread, hdraw⟩
  case refused =>
    intro hbad
    obtain ⟨r, hr⟩ := decodeAccess_refused { kind := .write w, offset := off, size := sz } hbad
    exact step_write_error h rfl hr

/-- Settles O14: the write stores the low byte, and the read of the state after it returns that byte. -/
theorem windowWriteReadsBack : Obligations.WindowWriteReadsBack := by
  intro s w off i rest hi hoff h
  have hcap : i < Config.pbufCap := Nat.lt_succ_of_le hi
  have hwindow (k : AccessKind) := decodeAccess_window k off i hcap hoff
  refine ⟨_, _, step_write_ok h rfl (hwindow _), step_read_ok (State.writeByte_inputs _ _ _) rfl (hwindow _), ?_⟩
  simp [readTarget, State.readByte_writeByte_same _ _ _ hcap]

/-- Settles O15: the first read changes only the records, on which the word that the second read returns does not depend. -/
theorem readsAreIdempotent : Obligations.ReadsAreIdempotent := by
  rintro s off sz rest h ⟨rfl, halign, hmap⟩
  obtain ⟨t, ht⟩ := decodeAccess_mapped .read halign hmap
  refine ⟨readTarget t s, _, step_read_ok h rfl ht, ?_⟩
  rw [step_read_ok rfl rfl ht, readTarget_of_records, List.append_assoc]
  rfl

/-- Settles O6: the write's target is `CMD`, and its word decodes. -/
theorem stepRunsTheDecodedCommand : Obligations.StepRunsTheDecodedCommand := by
  intro s w i rest h hw
  exact (step_write_ok h rfl (decodeAccess_cmd _)).trans (executeCommand_ok w _ i hw)

end Sys2Proof.Machine
end

/-! PROOFS. The encoding (30_encoding.md): the decoder answers a command exactly for the encoder's word of it, which words
are legal, which word each row of the opcode table covers, and what an assembler line stands for. -/

section
namespace Sys2Proof.Machine

/-! ### The decoder and the encoder -/

/-- The decoder reads the fields that the encoder gives a command (30_encoding.md R83). -/
theorem decodeFields_encodeFields (i : Instr) : decodeFields (encodeFields i) = .ok i := by
  cases i <;> rfl

@[simp] theorem decode_encode (i : Instr) : decode (encode i) = .ok i := by
  rw [decode, encode, fieldsOf_wordOf, decodeFields_encodeFields]

/-- Settles O8: the fields survive the word, and the decoder reads them back. -/
theorem encodedCommandsDecodeBack : Obligations.EncodedCommandsDecodeBack := decode_encode

/-- Settles O9: legal fields are those that the encoder gives, and a word is its fields. -/
theorem legalWordsAreTheEncodings : Obligations.LegalWordsAreTheEncodings := fun _ _ => eq_encode_of_decode

/-- Settles O7: each word but the last is the encoder's word of its command. -/
theorem sampleWordsDecode : Obligations.SampleWordsDecode :=
  ⟨decode_encode .crcInit, decode_encode (.crcByte 0x31), decode_encode .crcApp, decode_encode (.crcAppS 0x15),
    decode_encode .fixEnd, decode_encode .hdr, decode_encode .encode, decode_encode .report, by decide⟩

/-! ### The opcode table -/

@[simp] theorem commandOf_mnemonic (m : Mnemonic) (b : Byte) : (commandOf m b).mnemonic = m := by
  cases m <;> rfl

theorem commandOf_noOperand {m : Mnemonic} (hm : m.takesByte = false) (b : Byte) : commandOf m b = commandOf m 0 := by
  cases m with
  | crcByte | crcAppS => cases hm
  | crcInit | crcApp | fixEnd | hdr | encode | report => rfl

/-- The commands of a mnemonic differ in the operand byte alone (30_encoding.md R83). -/
theorem mnemonic_eq_iff {i : Instr} {m : Mnemonic} : i.mnemonic = m ↔ ∃ b, i = commandOf m b := by
  constructor
  · rintro rfl
    cases i with
    | crcByte b => exact ⟨b, rfl⟩
    | crcAppS b => exact ⟨b, rfl⟩
    | crcInit | crcApp | fixEnd | hdr | encode | report => exact ⟨0, rfl⟩
  · rintro ⟨b, rfl⟩
    exact commandOf_mnemonic m b

/-- A word is its high 24 bits and its low byte. -/
theorem high_append_low (w : Word) : w.extractLsb' 8 24 ++ w.extractLsb' 0 8 = w :=
  (BitVec.extractLsb'_append_extractLsb'_eq_extractLsb' rfl).trans BitVec.extractLsb'_eq_self

/-- The mask of a row with an operand clears the operand byte. -/
theorem append_and_operandMask (high : BitVec 24) (b : Byte) :
    (high ++ b : Word) &&& 0xFFFFFF00 = high ++ (0 : Byte) := by
  calc (high ++ b : Word) &&& 0xFFFFFF00
      = (high ++ b) &&& (BitVec.allOnes 24 ++ 0#8) := rfl
    _ = (high &&& BitVec.allOnes 24) ++ (b &&& 0#8) := BitVec.and_append
    _ = high ++ 0#8 := by rw [BitVec.and_allOnes, BitVec.and_zero]

/-- A row whose mask leaves no bit free covers the one word of its mnemonic. -/
theorem covers_fullMask {m : Mnemonic} {p : Word} (hm : m.takesByte = false) (hp : encode (commandOf m 0) = p)
    (w : Word) : OpcodeRow.covers ⟨m, p, 0xFFFFFFFF⟩ w = true ↔ ∃ b, w = encode (commandOf m b) := by
  have hmask : w &&& 0xFFFFFFFF = w := BitVec.and_allOnes
  simp only [OpcodeRow.covers, hmask, beq_iff_eq, commandOf_noOperand hm, hp, exists_const]

/-- A row whose mask leaves the low byte free covers its mnemonic's words with every operand byte. -/
theorem covers_operandMask {m : Mnemonic} {p : Word} {high : BitVec 24} (hp : high ++ (0 : Byte) = p)
    (hm : ∀ b, encode (commandOf m b) = high ++ b) (w : Word) :
    OpcodeRow.covers ⟨m, p, 0xFFFFFF00⟩ w = true ↔ ∃ b, w = encode (commandOf m b) := by
  simp only [OpcodeRow.covers, beq_iff_eq, ← hp, hm]
  constructor
  · intro h
    rw [← high_append_low w, append_and_operandMask, BitVec.append_left_inj] at h
    exact ⟨w.extractLsb' 0 8, by rw [← h, high_append_low]⟩
  · rintro ⟨b, rfl⟩
    exact append_and_operandMask high b

theorem encode_crcByte (b : Byte) : encode (.crcByte b) = (0x020000 : BitVec 24) ++ b :=
  congrArg (· ++ b) (show (2#8 ++ 0#7 ++ 0#1 ++ 0#8 : BitVec 24) = 0x020000 from rfl)

theorem encode_crcAppS (b : Byte) : encode (.crcAppS b) = (0x030100 : BitVec 24) ++ b :=
  congrArg (· ++ b) (show (3#8 ++ 0#7 ++ 1#1 ++ 0#8 : BitVec 24) = 0x030100 from rfl)

/-- A row covers exactly the words of the commands of its mnemonic (30_encoding.md R83). -/
theorem covers_iff {r : OpcodeRow} (hr : r ∈ opcodeRows) (w : Word) :
    r.covers w = true ↔ ∃ b, w = encode (commandOf r.mnemonic b) := by
  simp only [opcodeRows, List.mem_cons, List.not_mem_nil, or_false] at hr
  obtain rfl | rfl | rfl | rfl | rfl | rfl | rfl | rfl := hr
  case inr.inl => exact covers_operandMask (m := .crcByte) (by decide) encode_crcByte w
  case inr.inr.inr.inl => exact covers_operandMask (m := .crcAppS) (by decide) encode_crcAppS w
  all_goals exact covers_fullMask rfl (by decide) w

theorem exists_row_of_mnemonic (m : Mnemonic) : ∃ r ∈ opcodeRows, r.mnemonic = m := by
  cases m <;> decide

/-- Settles O10: the decoder reads exactly the encoder's words, which are the words that the rows cover. -/
theorem opcodeTableAgreesWithTheDecoder : Obligations.OpcodeTableAgreesWithTheDecoder := by
  intro w m
  constructor
  · rintro ⟨i, hi, hm⟩
    obtain ⟨b, rfl⟩ := mnemonic_eq_iff.mp hm
    obtain ⟨r, hr, rfl⟩ := exists_row_of_mnemonic m
    exact ⟨r, hr, rfl, (covers_iff hr w).mpr ⟨b, eq_encode_of_decode hi⟩⟩
  · rintro ⟨r, hr, rfl, hw⟩
    obtain ⟨b, rfl⟩ := (covers_iff hr w).mp hw
    exact ⟨commandOf r.mnemonic b, decode_encode _, commandOf_mnemonic _ b⟩

/-! ### Illegal words -/

/-- The reasons for which 30_encoding.md R84 and R85 call a command word illegal. -/
def IllegalFields (f : CmdFields) : Prop :=
  f.opc = 0x00 ∨ 0x08 ≤ f.opc.toNat ∨ f.rsv1 ≠ 0 ∨ f.rsv0 ≠ 0 ∨
  ((f.opc = 0x01 ∨ f.opc = 0x04 ∨ f.opc = 0x05 ∨ f.opc = 0x06 ∨ f.opc = 0x07) ∧ (f.s ≠ 0 ∨ f.imm8 ≠ 0)) ∨
  (f.opc = 0x02 ∧ f.s ≠ 0) ∨ (f.opc = 0x03 ∧ f.s = 0 ∧ f.imm8 ≠ 0)

theorem encodeFields_legal (i : Instr) : ¬ IllegalFields (encodeFields i) := by
  cases i <;> simp [IllegalFields, encodeFields]

theorem noOperand_error {f : CmdFields} {i : Instr} {e : CmdReject} (h : noOperand f i = .error e) :
    f.s ≠ 0 ∨ f.imm8 ≠ 0 := by
  unfold noOperand at h
  split_ifs at h with hop
  exact not_and_or.mp hop

/-- A command without operands is rejected for `S` or `IMM8` (30_encoding.md R84). -/
theorem illegalFields_of_noOperand {f : CmdFields} {i : Instr} {e : CmdReject}
    (hopc : f.opc = 1 ∨ f.opc = 4 ∨ f.opc = 5 ∨ f.opc = 6 ∨ f.opc = 7) (h : noOperand f i = .error e) :
    IllegalFields f :=
  .inr (.inr (.inr (.inr (.inl ⟨hopc, noOperand_error h⟩))))

/-- The opcodes outside the rows of 30_encoding.md R83 (R85). -/
theorem opcode_unknown {opc : BitVec 8} (h1 : opc ≠ 1) (h2 : opc ≠ 2) (h3 : opc ≠ 3) (h4 : opc ≠ 4) (h5 : opc ≠ 5)
    (h6 : opc ≠ 6) (h7 : opc ≠ 7) : opc = 0 ∨ 8 ≤ opc.toNat := by
  bv_omega

/-- Each branch in which the decoder rejects has its reason in 30_encoding.md R84 and R85. -/
theorem illegalFields_of_decodeFields {f : CmdFields} {e : CmdReject} (h : decodeFields f = .error e) :
    IllegalFields f := by
  unfold decodeFields at h
  split_ifs at h with hrsv h1 h2 hs h3 hs h4 h5 h6 h7
  · exact .inr (.inr (or_assoc.mp (.inl hrsv)))
  · exact illegalFields_of_noOperand (by simp [h1]) h
  · exact .inr (.inr (.inr (.inr (.inr (.inl ⟨h2, hs⟩)))))
  · obtain hs1 | himm := noOperand_error h
    · exact absurd hs hs1
    · exact .inr (.inr (.inr (.inr (.inr (.inr ⟨h3, hs, himm⟩)))))
  · exact illegalFields_of_noOperand (by simp [h4]) h
  · exact illegalFields_of_noOperand (by simp [h5]) h
  · exact illegalFields_of_noOperand (by simp [h6]) h
  · exact illegalFields_of_noOperand (by simp [h7]) h
  · exact (opcode_unknown h1 h2 h3 h4 h5 h6 h7).elim .inl fun h8 => .inr (.inl h8)

/-- The decoder rejects exactly the illegal words. -/
theorem exists_decode_iff_legal (w : Word) : (∃ i, decode w = .ok i) ↔ ¬ IllegalFields (fieldsOf w) := by
  constructor
  · rintro ⟨i, hi⟩
    rw [eq_encode_of_decode hi, encode, fieldsOf_wordOf]
    exact encodeFields_legal i
  · intro hlegal
    cases h : decode w with
    | ok i => exact ⟨i, rfl⟩
    | error e => exact absurd (illegalFields_of_decodeFields h) hlegal

/-- A `CMD` write of a word that no command has raises ERR_CMD alone (30_encoding.md R85). -/
theorem step_cmdWrite_illegal {s : State} {w : Word} {rest : List Input}
    (h : s.inputs = .access (cmdWrite w) :: rest) (hw : ¬ ∃ i, decode w = .ok i) :
    step s = .next { s with errCmd := true, inputs := rest } := by
  rw [step_write_ok h rfl (decodeAccess_cmdWrite w)]
  obtain ⟨i, hi, _⟩ | ⟨e, _, he⟩ := executeCommand_cases w { s with inputs := rest }
  · exact absurd ⟨i, hi⟩ hw
  · exact he

/-- Settles O11: `illegal` is `IllegalFields` of the word's fields, and the decoder rejects exactly those words. -/
theorem illegalWordsRaiseErrCmdAndNothingElse : Obligations.IllegalWordsRaiseErrCmdAndNothingElse := by
  intro s w rest h opc rsv1 sf rsv0 imm8 illegal
  have hlegal : (∃ i, decode w = .ok i) ↔ ¬ illegal := exists_decode_iff_legal w
  constructor
  · intro hill
    exact step_cmdWrite_illegal h fun hd => hlegal.mp hd hill
  · exact hlegal.mpr

/-! ### The assembler -/

theorem assembleWr_fits {off val : Nat} (hoff : off < 4096) (hval : val < 4294967296) :
    assembleWr off val =
      .ok { kind := .write (BitVec.ofNat 32 val), offset := BitVec.ofNat 12 off, size := .four } :=
  if_pos ⟨hoff, hval⟩

theorem assembleRd_fits {off : Nat} (hoff : off < 4096) :
    assembleRd off = .ok { kind := .read, offset := BitVec.ofNat 12 off, size := .four } :=
  if_pos hoff

/-- Settles O46: the offsets of the window and the offsets and words of the machine forms fit their fields. -/
theorem pseudoInstructionsExpand : Obligations.PseudoInstructionsExpand := by
  refine ⟨?window, ?machine, rfl, rfl, rfl⟩
  case window =>
    intro i b hi hb
    have hoff : 0x400 + 4 * i < 4096 := by omega
    exact ⟨assembleWr_fits hoff (by omega), assembleRd_fits hoff⟩
  case machine =>
    intro off val
    constructor
    · simpa [assemble] using assembleWr_fits off.isLt val.isLt
    · simpa [assemble, expectedFits] using assembleRd_fits off.isLt

/-- The low byte of a command's word is its operand field (30_encoding.md R81, R82). -/
theorem encode_imm8 (i : Instr) : (encode i).extractLsb' 0 8 = (encodeFields i).imm8 :=
  congrArg CmdFields.imm8 (fieldsOf_wordOf (encodeFields i))

theorem commandOf_imm8 {m : Mnemonic} (hm : m.takesByte = true) (b : Byte) :
    (encodeFields (commandOf m b)).imm8 = b := by
  cases m with
  | crcByte | crcAppS => rfl
  | crcInit | crcApp | fixEnd | hdr | encode | report => cases hm

/-- Settles O47: a line's command is `commandOf` of its mnemonic and byte. -/
theorem commandLinesAssembleToTheirWords : Obligations.CommandLinesAssembleToTheirWords := by
  refine ⟨?byte, ?plain, ?range⟩
  case byte =>
    intro m n hm hn
    refine ⟨commandOf m (BitVec.ofNat 8 n), commandOf_mnemonic _ _, ?_, ?_⟩
    · simp [assemble, assembleCommand, hm, hn, Except.map, cmdWrite]
    · rw [encode_imm8, commandOf_imm8 hm]
  case plain =>
    intro m hm
    refine ⟨commandOf m 0, commandOf_mnemonic _ _, ?_⟩
    simp [assemble, assembleCommand, hm, Except.map, cmdWrite]
  case range =>
    intro m n hm hn
    simp [assemble, assembleCommand, hm, Nat.not_le.mpr hn, Except.map]

end Sys2Proof.Machine
end

/-! PROOFS. The checksum engine (40_checksum.md): the mixing step is eight rounds of the bitwise CRC, both being linear over
GF(2); and the commands that fold bytes into `ACC` or append a checksum to the buffer. -/

section
namespace Sys2Proof.Machine

/-! ### The bitwise CRC -/

theorem crcBitwise_eq_iterate (acc : Half) (b : Byte) : crcBitwise acc b = crcBit^[8] (acc ^^^ b.setWidth 16) := rfl

/-- A round shifts, and the bit shifted out selects whether the polynomial is folded in (40_checksum.md R112). -/
theorem crcBit_eq_xor (a : Half) : crcBit a = (a >>> 1) ^^^ (if a.getLsbD 0 then 0x8408 else 0) := by
  unfold crcBit
  split <;> simp

theorem crcBit_xor (x y : Half) : crcBit (x ^^^ y) = crcBit x ^^^ crcBit y := by
  have hselect : ∀ c d : Bool, (if c ^^ d then 0x8408 else 0 : Half) =
      (if c then 0x8408 else 0) ^^^ (if d then 0x8408 else 0) := by decide
  rw [crcBit_eq_xor, BitVec.ushiftRight_xor_distrib, BitVec.getLsbD_xor, hselect, crcBit_eq_xor x, crcBit_eq_xor y]
  ac_rfl

theorem crcBit_iterate_xor (n : Nat) (x y : Half) : crcBit^[n] (x ^^^ y) = crcBit^[n] x ^^^ crcBit^[n] y :=
  Function.Semiconj₂.iterate crcBit_xor n x y

/-- Eight rounds only shift a byte that starts above the eight bits that they shift out. -/
theorem crcBit_iterate_highByte : ∀ x : Byte, crcBit^[8] (x.setWidth 16 <<< 8) = x.setWidth 16 := by decide

/-- Eight rounds on a byte alone give its mixed and folded value (40_checksum.md R110). -/
theorem crcBit_iterate_lowByte : ∀ x : Byte, crcBit^[8] (x.setWidth 16) = crcStep 0 x := by decide

/-! ### The mixing step -/

theorem ushiftRight_eq_hiByte (a : Half) : a >>> 8 = (hiByte a).setWidth 16 := by
  apply BitVec.eq_of_toNat_eq
  simp [hiByte, Nat.shiftRight_eq_div_pow]
  omega

/-- A `u16` is its two bytes (00_scope.md R5). -/
theorem hiByte_xor_loByte (a : Half) : ((hiByte a).setWidth 16 <<< 8) ^^^ (loByte a).setWidth 16 = a := by
  apply BitVec.eq_of_getLsbD_eq
  intro i hi
  by_cases h : i < 8
  · simp [hiByte, loByte, h, hi]
  · simp [hiByte, loByte, h, hi, show i - 8 < 8 by omega, show 8 + (i - 8) = i by omega]

/-- The accumulator's high byte is shifted down; its low byte is folded in with the covered byte. -/
theorem crcStep_eq_xor (acc : Half) (b : Byte) :
    crcStep acc b = (hiByte acc).setWidth 16 ^^^ crcStep 0 (b ^^^ loByte acc) := by
  simp [crcStep, loByte, ← ushiftRight_eq_hiByte, BitVec.xor_assoc]

/-- The step is eight rounds of the bitwise CRC (40_checksum.md R112). -/
theorem crcStep_eq_iterate (acc : Half) (b : Byte) : crcStep acc b = crcBit^[8] (acc ^^^ b.setWidth 16) := by
  have hsplit : acc ^^^ b.setWidth 16 =
      ((hiByte acc).setWidth 16 <<< 8) ^^^ (b ^^^ loByte acc).setWidth 16 := by
    rw [BitVec.setWidth_xor, BitVec.xor_comm (b.setWidth 16), ← BitVec.xor_assoc, hiByte_xor_loByte]
  rw [hsplit, crcBit_iterate_xor, crcBit_iterate_highByte, crcBit_iterate_lowByte, ← crcStep_eq_xor]

/-- Settles O30: `crcBitwise` is those eight rounds. -/
theorem crcStepIsTheBitwiseCrc : Obligations.CrcStepIsTheBitwiseCrc := by
  intro acc b
  rw [crcStep_eq_iterate, crcBitwise_eq_iterate]

/-- The step is linear over GF(2), as its rounds are (40_checksum.md R114). -/
theorem crcStep_xor (a1 a2 : Half) (b1 b2 : Byte) :
    crcStep (a1 ^^^ a2) (b1 ^^^ b2) = crcStep a1 b1 ^^^ crcStep a2 b2 := by
  have hpair : (a1 ^^^ a2) ^^^ (b1 ^^^ b2).setWidth 16 = (a1 ^^^ b1.setWidth 16) ^^^ (a2 ^^^ b2.setWidth 16) := by
    rw [BitVec.setWidth_xor]
    ac_rfl
  simp only [crcStep_eq_iterate, hpair, crcBit_iterate_xor]

/-- Settles O31: the step is linear as its rounds are, and a checksum folds its last byte last. -/
theorem crcStepIsLinearAndSeedComesLast : Obligations.CrcStepIsLinearAndSeedComesLast :=
  ⟨crcStep_xor, by decide, fun covered seed => crc_append 0xFFFF covered [seed]⟩

/-- In 24 bits no bit of the mixed value is lost before the truncation (40_checksum.md R110). -/
theorem setWidth_fold (acc : Half) (t : Byte) :
    ((acc.setWidth 24 >>> 8) ^^^ (t.setWidth 24 <<< 8) ^^^ (t.setWidth 24 <<< 3) ^^^ (t.setWidth 24 >>> 4)).setWidth 16 =
      (acc >>> 8) ^^^ (t.setWidth 16 <<< 8) ^^^ (t.setWidth 16 <<< 3) ^^^ (t >>> 4).setWidth 16 := by
  simp (disch := omega) only [BitVec.setWidth_xor, BitVec.setWidth_shiftLeft_of_le, ← BitVec.setWidth_ushiftRight,
    BitVec.setWidth_setWidth_of_le, BitVec.setWidth_eq]

/-- Settles O29: CRCBYTE is one step, and the shifts in 24 bits lose no bit. -/
theorem crcByteFoldsOneByte : Obligations.CrcByteFoldsOneByte := by
  intro b s t1 t wide
  rw [exec_crcByte, setWidth_fold]
  rfl

/-! ### The running checksum -/

/-- Settles O28: CRCINIT is one write of `ACC`. -/
theorem crcInitSetsTheAccumulator : Obligations.CrcInitSetsTheAccumulator := exec_crcInit

/-- CRCBYTEs fold their bytes into `ACC` in order and leave everything else (40_checksum.md R113, R116). -/
theorem execAll_crcBytes (bytes : List Byte) (s : State) :
    execAll (bytes.map .crcByte) s = .next (s.setAcc (crc s.acc bytes)) := by
  induction bytes generalizing s with
  | nil => rfl
  | cons b bs ih => exact ih (s.setAcc (crcStep s.acc b))

theorem execAll_crcInit_crcBytes (bytes : List Byte) (s : State) :
    execAll (.crcInit :: bytes.map .crcByte) s = .next (s.setAcc (crc Config.crcInit bytes)) :=
  execAll_crcBytes bytes (s.setAcc Config.crcInit)

/-! ### CRCAPP -/

/-- Settles O33: `PBUF[1]` is a byte, so `7 + L'` is at most 262. -/
theorem crcAppIndicesLieInTheBuffer : Obligations.CrcAppIndicesLieInTheBuffer := by
  constructor
  · intro s k hk
    have hlen := s.payloadLen_lt
    simp only [Config.pbufCap]
    omega
  · intro s h
    rw [State.payloadLen, h]
    rfl

theorem State.coveredBytes_eq_map (s : State) :
    s.coveredBytes = (List.range (5 + (s.readByte 1).toNat)).map (fun k => s.readByte (k + 1)) := by
  simp only [State.coveredBytes, State.readBytes, State.payloadLen, Nat.add_comm 1]

theorem State.checksumWith_none (s : State) : s.checksumWith none = crc Config.crcInit s.coveredBytes := by
  rw [State.checksumWith, Option.toList_none, List.append_nil]

theorem State.checksumWith_some (seed : Byte) (s : State) :
    s.checksumWith (some seed) = crcStep (crc Config.crcInit s.coveredBytes) seed :=
  crc_append Config.crcInit s.coveredBytes [seed]

/-- Settles O35: both checksums are those of the covered bytes and the seed, and a CRCBYTE writes `ACC` alone. -/
theorem runningChecksumEqualsCrcApp : Obligations.RunningChecksumEqualsCrcApp := by
  intro s seed
  rw [← State.coveredBytes_eq_map]
  refine ⟨_, _, _, _, execAll_crcInit_crcBytes _ s, exec_crcApp s, ?_, execAll_crcInit_crcBytes _ s,
    exec_crcAppS seed s, ?_, rfl, rfl⟩
  · rw [State.crcAppend_acc, State.checksumWith_none, State.setAcc_acc]
  · rw [State.crcAppend_acc, State.checksumWith_some, State.setAcc_acc, crc_append, crc_cons, crc_nil]

/-- What CRCAPP changes and what it leaves (40_checksum.md R117, R120). -/
theorem State.crcAppend_frame (seed : Option Byte) (s : State) :
    (s.crcAppend seed).readByte (6 + s.payloadLen) = loByte (s.checksumWith seed) ∧
      (s.crcAppend seed).readByte (7 + s.payloadLen) = hiByte (s.checksumWith seed) ∧
      s.bytesKept (s.crcAppend seed) (fun j => j = 6 + s.payloadLen ∨ j = 7 + s.payloadLen) ∧
      (s.crcAppend seed).seq = s.seq ∧ s.statusKept (s.crcAppend seed) ∧ s.outsideKept (s.crcAppend seed) := by
  refine ⟨?_, ?_, ?_, by simp, by simp [State.statusKept], by simp [State.outsideKept]⟩
  · rw [State.crcAppend_readByte, if_pos rfl]
  · rw [State.crcAppend_readByte, if_neg (by omega), if_pos rfl]
  · intro j hj
    obtain ⟨h6, h7⟩ := not_or.mp hj
    rw [State.crcAppend_readByte, if_neg h6, if_neg h7]

/-- Settles O32: both forms append the checksum of the covered bytes and the seed, when there is one. -/
theorem crcAppAppendsTheChecksum : Obligations.CrcAppAppendsTheChecksum := by
  intro s n covered appends
  have hcovered : covered = s.coveredBytes := s.coveredBytes_eq_map.symm
  have happends (i : Instr) (seed : Option Byte) (h : exec i s = .next (s.crcAppend seed)) :
      appends i (s.checksumWith seed) := ⟨_, h, s.crcAppend_acc seed, s.crcAppend_frame seed⟩
  rw [hcovered]
  constructor
  · have h := happends .crcApp none (exec_crcApp s)
    rwa [State.checksumWith_none] at h
  · intro seed
    have h := happends (.crcAppS seed) (some seed) (exec_crcAppS seed s)
    rwa [State.checksumWith_some] at h

/-- States that agree on the covered bytes get the same checksum in the same place (40_checksum.md R122). -/
theorem State.crcAppend_congr (seed : Option Byte) (s s' : State)
    (h : ∀ k, 1 ≤ k → k ≤ 5 + s.payloadLen → s'.readByte k = s.readByte k) :
    (s'.crcAppend seed).acc = (s.crcAppend seed).acc ∧
      (s'.crcAppend seed).readByte (6 + s.payloadLen) = (s.crcAppend seed).readByte (6 + s.payloadLen) ∧
      (s'.crcAppend seed).readByte (7 + s.payloadLen) = (s.crcAppend seed).readByte (7 + s.payloadLen) := by
  have hlen : s'.payloadLen = s.payloadLen := congrArg BitVec.toNat (h 1 le_rfl (by omega))
  have hsum := State.checksumWith_congr seed s s' hlen h
  obtain ⟨hlo, hhi, _⟩ := s.crcAppend_frame seed
  obtain ⟨hlo', hhi', _⟩ := s'.crcAppend_frame seed
  rw [hlen, hsum] at hlo' hhi'
  exact ⟨by rw [State.crcAppend_acc, State.crcAppend_acc, hsum], hlo'.trans hlo.symm, hhi'.trans hhi.symm⟩

/-- Settles O34: the length is a covered byte, so the checksums and their places are the same. -/
theorem crcAppDependsOnCoveredBytesAlone : Obligations.CrcAppDependsOnCoveredBytesAlone := by
  intro i s s' hi n h
  obtain rfl | ⟨seed, rfl⟩ := hi
  · exact ⟨_, _, exec_crcApp s, exec_crcApp s', State.crcAppend_congr none s s' h⟩
  · exact ⟨_, _, exec_crcAppS seed s, exec_crcAppS seed s', State.crcAppend_congr (some seed) s s' h⟩

end Sys2Proof.Machine
end

/-! PROOFS. The field layout encoder (41_encoder.md): ENCODE's payload byte by byte in both layouts, with the four
statistics bytes as one span inside it, and what the FIXEND after it does to a v0.9 payload. -/

section
namespace Sys2Proof.Machine

/-! ### The sample's version and the other node's slot -/

theorem isV10_of_version_one {e : Ports} (h : e.version = 1) : isV10 e = true := by
  rw [isV10, h]
  rfl

theorem isV10_of_version_zero {e : Ports} (h : e.version = 0) : isV10 e = false := by
  rw [isV10, h]
  rfl

/-- Slot `1 - node_id` is the other node's (41_encoder.md R141). -/
theorem slotOf_statSlot (e : Ports) (a : Slots) : slotOf a (statSlot e) = otherSlot e a := by
  rw [slotOf, statSlot, otherSlot]
  obtain h | h := BitVec.eq_zero_or_eq_one e.nodeId <;> rw [h] <;> rfl

/-- The four statistics bytes in the order of both layouts (41_encoder.md R144, R145). -/
def otherStats (e : Ports) : List Byte :=
  [otherSlot e e.locNoise, otherSlot e e.locRssi, otherSlot e e.remRssi, otherSlot e e.remNoise]

theorem statBytes_eq_otherStats (e : Ports) : statBytes e = e.txbuf :: otherStats e := by
  simp only [statBytes, noiseOf, rssiOf, remrssiOf, remnoiseOf, slotOf_statSlot, otherStats]

/-! ### The payload of each layout -/

theorem payloadBytes_of_version_one {e : Ports} (h : e.version = 1) :
    payloadBytes e = counterBytes e ++ e.txbuf :: otherStats e ++ [0, 0, 0] := by
  rw [payloadBytes_v10 e (isV10_of_version_one h), statBytes_eq_otherStats]

theorem payloadBytes_of_version_zero {e : Ports} (h : e.version = 0) :
    payloadBytes e = e.txbuf :: otherStats e ++ counterBytes e ++ [0, 0, 0] := by
  rw [payloadBytes_v09 e (isV10_of_version_zero h), statBytes_eq_otherStats]

/-- Payload byte `p` stands at frame offset `6 + p` (41_encoder.md R144). -/
theorem State.encodePayload_byte {e : Ports} {vs : List Byte} (h : payloadBytes e = vs) (s : State) (p : Nat) {b : Byte}
    (hb : vs[p]? = some b) : (s.encodePayload e).readByte (6 + p) = b := by
  have hp : p < 12 := by
    obtain ⟨hlt, _⟩ := List.getElem?_eq_some_iff.mp hb
    rwa [← h, payloadBytes_length] at hlt
  rw [State.encodePayload_readByte, if_pos (by omega), Nat.add_sub_cancel_left, h, List.getD_eq_getElem?_getD, hb]
  rfl

/-- ENCODE writes `PBUF[6..17]` and nothing else (41_encoder.md R149). -/
theorem State.encodePayload_frame (e : Ports) (s : State) :
    s.bytesKept (s.encodePayload e) (fun j => 6 ≤ j ∧ j ≤ 17) ∧ (s.encodePayload e).acc = s.acc ∧
      (s.encodePayload e).seq = s.seq ∧ s.statusKept (s.encodePayload e) ∧ s.outsideKept (s.encodePayload e) := by
  refine ⟨fun j hj => ?_, by simp, by simp, by simp [State.statusKept], by simp [State.outsideKept]⟩
  rw [State.encodePayload_readByte, if_neg (by omega)]

/-- Settles O36: the twelve bytes are those of the v1.0 payload, in order. -/
theorem encodeWritesTheV10Layout : Obligations.EncodeWritesTheV10Layout := by
  intro s hv e stat
  have byte := State.encodePayload_byte (payloadBytes_of_version_one hv) s
  exact ⟨_, exec_encode s, byte 0 rfl, byte 1 rfl, byte 2 rfl, byte 3 rfl, byte 4 rfl, byte 5 rfl, byte 6 rfl,
    byte 7 rfl, byte 8 rfl, byte 9 rfl, byte 10 rfl, byte 11 rfl, s.encodePayload_frame e⟩

/-- FIXEND of a v0.9 sample exchanges 11 with 12 and 13 with 14 (42_byteorder.md R172, R173). -/
theorem State.fixEndianness_swaps_v09 {e : Ports} (h : isV10 e = false) (s : State) :
    (s.fixEndianness e).readByte 11 = s.readByte 12 ∧ (s.fixEndianness e).readByte 12 = s.readByte 11 ∧
      (s.fixEndianness e).readByte 13 = s.readByte 14 ∧ (s.fixEndianness e).readByte 14 = s.readByte 13 ∧
      s.bytesKept (s.fixEndianness e) (fun j => 11 ≤ j ∧ j ≤ 14) := by
  have byte := s.fixEndianness_readByte_v09 e h
  exact ⟨byte 11, byte 12, byte 13, byte 14, fun j hj => s.fixEndianness_readByte_other e j (by omega)⟩

/-- Settles O37: the twelve bytes are those of the v0.9 payload, in order; the ports stay, so FIXEND swaps the two
counters. -/
theorem encodeWritesTheV09Layout : Obligations.EncodeWritesTheV09Layout := by
  intro s hv e stat
  have byte := State.encodePayload_byte (payloadBytes_of_version_zero hv) s
  obtain ⟨hbytes, hacc, hseq, hstatus, houtside⟩ := s.encodePayload_frame e
  have hv' : isV10 (s.encodePayload e).ports = false := by
    rw [State.encodePayload_ports]
    exact isV10_of_version_zero hv
  obtain ⟨h11, h12, h13, h14, hkept⟩ := (s.encodePayload e).fixEndianness_swaps_v09 hv'
  exact ⟨_, exec_encode s, byte 0 rfl, byte 1 rfl, byte 2 rfl, byte 3 rfl, byte 4 rfl, byte 5 rfl, byte 6 rfl,
    byte 7 rfl, byte 8 rfl, byte 9 rfl, byte 10 rfl, byte 11 rfl, hbytes, hacc, hseq, hstatus, houtside,
    _, exec_fixEnd _, h11.trans (byte 6 rfl), h12.trans (byte 5 rfl), h13.trans (byte 8 rfl),
    h14.trans (byte 7 rfl), hkept⟩

/-! ### The span of the statistics bytes -/

/-- The payload bytes in front of the statistics. -/
def beforeStats (e : Ports) : List Byte := if isV10 e then counterBytes e ++ [e.txbuf] else [e.txbuf]

/-- The payload bytes behind the statistics. -/
def afterStats (e : Ports) : List Byte := if isV10 e then [0, 0, 0] else counterBytes e ++ [0, 0, 0]

theorem payloadBytes_eq_around_otherStats (e : Ports) :
    payloadBytes e = beforeStats e ++ otherStats e ++ afterStats e := by
  cases h : isV10 e with
  | true => simp [payloadBytes_v10 e h, statBytes_eq_otherStats, beforeStats, afterStats, h]
  | false => simp [payloadBytes_v09 e h, statBytes_eq_otherStats, beforeStats, afterStats, h]

/-- The statistics start at frame offset 11 in v1.0 and at 7 in v0.9 (41_encoder.md R144, R145). -/
theorem beforeStats_offset (e : Ports) : 6 + (beforeStats e).length = if e.version = 1 then 11 else 7 := by
  obtain h | h := BitVec.eq_zero_or_eq_one e.version
  · rw [beforeStats, isV10_of_version_zero h, h]
    rfl
  · rw [beforeStats, isV10_of_version_one h, h]
    rfl

/-- ENCODE puts the four statistics bytes next to each other, from `beforeStats_offset` on. -/
theorem State.encodePayload_otherStats (e : Ports) (s : State) {first : Nat} (hfirst : 6 + (beforeStats e).length = first)
    (k : Nat) {b : Byte} (hb : (otherStats e)[k]? = some b) : (s.encodePayload e).readByte (first + k) = b := by
  obtain ⟨hk, _⟩ := List.getElem?_eq_some_iff.mp hb
  rw [← hfirst, Nat.add_assoc]
  refine State.encodePayload_byte (payloadBytes_eq_around_otherStats e) s _ ?_
  rw [List.append_assoc, List.getElem?_append_right (by omega), Nat.add_sub_cancel_left, List.getElem?_append_left hk, hb]

/-- Lists that differ only in a middle part of the same length agree outside it. -/
theorem getElem?_append_middle_congr {α : Type} (as ms ns bs : List α) (hlen : ns.length = ms.length) {k : Nat}
    (hk : k < as.length ∨ as.length + ms.length ≤ k) : (as ++ ns ++ bs)[k]? = (as ++ ms ++ bs)[k]? := by
  obtain hbefore | hafter := hk
  · rw [List.append_assoc, List.append_assoc, List.getElem?_append_left hbefore, List.getElem?_append_left hbefore]
  · rw [List.getElem?_append_right (by simp; omega), List.getElem?_append_right (by simp; omega)]
    simp [hlen]

/-- Outside the statistics the payload does not depend on `node_id` (41_encoder.md R151). -/
theorem payloadBytes_nodeId (e : Ports) (n : BitVec 1) {k : Nat}
    (hk : k < (beforeStats e).length ∨ (beforeStats e).length + 4 ≤ k) :
    (payloadBytes { e with nodeId := n }).getD k 0 = (payloadBytes e).getD k 0 := by
  have hbefore : beforeStats { e with nodeId := n } = beforeStats e := rfl
  have hafter : afterStats { e with nodeId := n } = afterStats e := rfl
  have hsame := getElem?_append_middle_congr (beforeStats e) (otherStats e) (otherStats { e with nodeId := n })
    (afterStats e) rfl hk
  rw [List.getD_eq_getElem?_getD, List.getD_eq_getElem?_getD, payloadBytes_eq_around_otherStats,
    payloadBytes_eq_around_otherStats, hbefore, hafter, hsame]

/-- Outside the statistics ENCODE leaves the buffer that it leaves for the other node (41_encoder.md R151). -/
theorem State.encodePayload_readByte_nodeId (e : Ports) (n : BitVec 1) {s s' : State} {first j : Nat}
    (hs : s'.readByte j = s.readByte j) (hfirst : 6 + (beforeStats e).length = first)
    (hj : ¬ (first ≤ j ∧ j ≤ first + 3)) :
    (s'.encodePayload { e with nodeId := n }).readByte j = (s.encodePayload e).readByte j := by
  rw [State.encodePayload_readByte, State.encodePayload_readByte]
  split
  · exact payloadBytes_nodeId e n (by omega)
  · exact hs

/-- Settles O38: the statistics are one span of the payload, whose place does not depend on `node_id`, and the rest of the
payload is the same for both nodes. -/
theorem nodeIdentityInvertsTheSlots : Obligations.NodeIdentityInvertsTheSlots := by
  intro s e v10
  refine ⟨_, _, exec_encode _, exec_encode _, ?_⟩
  intro first
  have hfirst : 6 + (beforeStats e).length = first := beforeStats_offset e
  have stat (n : BitVec 1) := State.encodePayload_otherStats { e with nodeId := n }
    { s with ports := { e with nodeId := n } } hfirst
  exact ⟨stat 0 0 rfl, stat 1 0 rfl, stat 0 1 rfl, stat 1 1 rfl, stat 0 2 rfl, stat 1 2 rfl, stat 0 3 rfl, stat 1 3 rfl,
    fun _ hj => State.encodePayload_readByte_nodeId { e with nodeId := 0 } 1 rfl hfirst hj⟩

end Sys2Proof.Machine
end


/-! PROOFS. The byte-order fixup (42_byteorder.md): FIXEND's swap and its frame, and that a second FIXEND undoes the
first, for every state and for the counters of a v0.9 frame. -/

section
namespace Sys2Proof.Machine

/-- FIXEND writes no register and nothing outside the block, in either layout (42_byteorder.md R173). -/
theorem State.fixEndianness_frame (e : Ports) (s : State) :
    (s.fixEndianness e).acc = s.acc ∧ (s.fixEndianness e).seq = s.seq ∧ s.statusKept (s.fixEndianness e) ∧
      s.outsideKept (s.fixEndianness e) :=
  ⟨by simp, by simp, by simp [State.statusKept], by simp [State.outsideKept]⟩

/-- Settles O39: the version picks the swap or the no-op. -/
theorem fixEndSwapsTheLegacyCounters : Obligations.FixEndSwapsTheLegacyCounters := by
  intro s
  constructor
  · intro hv
    obtain ⟨h11, h12, h13, h14, hkept⟩ := s.fixEndianness_swaps_v09 (isV10_of_version_zero hv)
    exact ⟨_, exec_fixEnd s, h11, h12, h13, h14, hkept, s.fixEndianness_frame s.ports⟩
  · intro hv
    rw [exec_fixEnd, State.fixEndianness_v10 s.ports s (isV10_of_version_one hv)]

/-! ### FIXEND twice -/

/-- The pair swap is its own inverse (42_byteorder.md R174). -/
theorem State.fixEndianness_fixEndianness_readByte (e : Ports) (s : State) (j : Nat) :
    ((s.fixEndianness e).fixEndianness e).readByte j = s.readByte j := by
  cases hv : isV10 e with
  | true => rw [State.fixEndianness_v10 e _ hv, State.fixEndianness_v10 e s hv]
  | false =>
    obtain ⟨h11, h12, h13, h14, hkept⟩ := s.fixEndianness_swaps_v09 hv
    obtain ⟨h11', h12', h13', h14', hkept'⟩ := (s.fixEndianness e).fixEndianness_swaps_v09 hv
    by_cases hj : 11 ≤ j ∧ j ≤ 14
    · obtain rfl | rfl | rfl | rfl : j = 11 ∨ j = 12 ∨ j = 13 ∨ j = 14 := by omega
      · exact h11'.trans h12
      · exact h12'.trans h11
      · exact h13'.trans h14
      · exact h14'.trans h13
    · exact (hkept' j hj).trans (hkept j hj)

theorem execAll_pair {i j : Instr} {s t u : State} (hi : exec i s = .next t) (hj : exec j t = .next u) :
    execAll [i, j] s = .next u := by
  simp only [execAll, hi, hj]

/-- FIXEND keeps the ports, so the second one works on the same sample. -/
theorem execAll_fixEnd_fixEnd (s : State) :
    execAll [.fixEnd, .fixEnd] s = .next ((s.fixEndianness s.ports).fixEndianness s.ports) := by
  refine execAll_pair (exec_fixEnd s) ?_
  rw [exec_fixEnd, State.fixEndianness_ports]

/-! ### The counters of a v0.9 frame -/

/-- A `u16` is its high byte and its low byte (00_scope.md R5). -/
theorem hiByte_append_loByte (v : Half) : hiByte v ++ loByte v = v :=
  (BitVec.extractLsb'_append_extractLsb'_eq_extractLsb' rfl).trans BitVec.extractLsb'_eq_self

/-- ENCODE leaves the v0.9 counters low byte first (41_encoder.md R145, R147). -/
theorem State.encodePayload_counters_v09 {e : Ports} (h : e.version = 0) (s : State) :
    (s.encodePayload e).readByte 12 ++ (s.encodePayload e).readByte 11 = e.rxErrors ∧
      (s.encodePayload e).readByte 14 ++ (s.encodePayload e).readByte 13 = e.corrected := by
  have byte := State.encodePayload_byte (payloadBytes_of_version_zero h) s
  constructor
  · rw [byte 6 rfl, byte 5 rfl, hiByte_append_loByte]
  · rw [byte 8 rfl, byte 7 rfl, hiByte_append_loByte]

/-- ENCODE keeps the ports, so FIXEND works on the same sample. -/
theorem execAll_encode_fixEnd (s : State) :
    execAll [.encode, .fixEnd] s = .next ((s.encodePayload s.ports).fixEndianness s.ports) := by
  refine execAll_pair (exec_encode s) ?_
  rw [exec_fixEnd, State.encodePayload_ports]

/-- Settles O40: the second FIXEND undoes the first, and ENCODE's counters, low byte first, are high byte first after one
FIXEND and low byte first again after two. -/
theorem fixEndRoundTripRestoresTheCounters : Obligations.FixEndRoundTripRestoresTheCounters := by
  constructor
  · intro s
    exact ⟨_, execAll_fixEnd_fixEnd s, fun j _ => s.fixEndianness_fixEndianness_readByte s.ports j,
      by simp [State.statusKept, State.outsideKept]⟩
  · intro s hv
    obtain ⟨hrx, hcorrected⟩ := s.encodePayload_counters_v09 hv
    obtain ⟨h11, h12, h13, h14, _⟩ := (s.encodePayload s.ports).fixEndianness_swaps_v09 (isV10_of_version_zero hv)
    refine ⟨_, _, execAll_encode_fixEnd s, ?_, ?_, exec_fixEnd _, ?_⟩
    · rw [h11, h12, hrx]
    · rw [h13, h14, hcorrected]
    · have hports : ((s.encodePayload s.ports).fixEndianness s.ports).ports = s.ports := by simp
      simp only [hports, State.fixEndianness_fixEndianness_readByte]
      exact ⟨hrx, hcorrected⟩

end Sys2Proof.Machine
end

/-! PROOFS. The report composer (43_composer.md): HDR's header, the frame that a REPORT composes as the frame of the spec's
tables, what its flow-control gate does with it, and REPORT as a sequence of commands. -/

section
namespace Sys2Proof.Machine

/-! ### `STATUS.LAST` -/

/-- A frame is dropped below 20 bytes of room and sent otherwise (43_composer.md R194). -/
theorem State.flush_last_of_room (e : Ports) (s : State) :
    (s.flush e).last = if e.txSpace.toNat < 20 then 0b10 else 0b01 := by
  rw [State.flush_last, ← ite_not]
  simp only [txFits_iff, Nat.not_le]
  rfl

/-- REPORT writes `LAST` by the room at the port `tx_space`; no other command writes it (43_composer.md R198). -/
theorem exec_last {i : Instr} {s t : State} (h : exec i s = .next t) :
    t.last = if i = .report then (if s.ports.txSpace.toNat < 20 then 0b10 else 0b01) else s.last := by
  cases i <;> cases h
  case report => exact State.flush_last_of_room _ _
  all_goals simp

/-- Settles O22: `LAST` can change by a command alone, and then by REPORT, whose word is fixed. -/
theorem onlyReportWritesLast : Obligations.OnlyReportWritesLast := by
  intro s t h hreset hne
  obtain ⟨w, i, rest, hin, hw, he⟩ | ⟨rest, hr, _⟩ | hkept := step_next_cases h
  · have hlast := exec_last he
    obtain rfl := eq_encode_of_decode hw
    by_cases hi : i = .report
    · obtain rfl := hi
      exact ⟨⟨rest, hin⟩, hlast⟩
    · rw [if_neg hi] at hlast
      exact absurd hlast hne
  · exact absurd hr (hreset rest)
  · exact absurd hkept.last hne

/-! ### Spans of the buffer -/

theorem State.readBytes_append (s : State) (i m n : Nat) :
    s.readBytes i (m + n) = s.readBytes i m ++ s.readBytes (i + m) n := by
  simp [State.readBytes, List.range_add, Nat.add_assoc]

theorem State.readBytes_getD (s : State) {i n k : Nat} (hk : k < n) :
    (s.readBytes i n).getD k 0 = s.readByte (i + k) := by
  simp [State.readBytes, hk]

/-- A block written inside `PBUF` reads back. -/
theorem State.readBytes_writeBytes (s : State) (i : Nat) {vs : List Byte} {n : Nat} (hn : vs.length = n)
    (h : i + n ≤ Config.pbufCap) : (s.writeBytes i vs).readBytes i n = vs := by
  subst hn
  apply List.ext_getElem (State.readBytes_length _ _ _)
  intro k hk hk'
  simp [State.readBytes, State.readByte_writeBytes _ _ _ _ h, hk']

/-! ### The header -/

theorem isV10_iff (e : Ports) : isV10 e = true ↔ e.version = 1 := beq_iff_eq

/-- The header of the state operations is that of the spec's table (43_composer.md R190). -/
theorem headerBytes_eq_wireHeader (e : Ports) (n : Byte) : headerBytes e n = wireHeader e n := by
  simp only [headerBytes, wireHeader, isV10_iff]
  rfl

theorem State.header_readBytes (e : Ports) (s : State) : (s.header e).readBytes 0 6 = wireHeader e s.seq := by
  rw [← headerBytes_eq_wireHeader]
  exact s.readBytes_writeBytes 0 (headerBytes_length e s.seq) (by decide)

/-- Header byte `j` stands at frame offset `j` (43_composer.md R190). -/
theorem State.header_byte (e : Ports) (s : State) {j : Nat} (hj : j < 6) :
    (s.header e).readByte j = (wireHeader e s.seq).getD j 0 := by
  rw [← State.header_readBytes, State.readBytes_getD _ hj, Nat.zero_add]

/-- HDR writes `PBUF[0..5]` and `SEQ` and nothing else (43_composer.md R192). -/
theorem State.header_frame (e : Ports) (s : State) :
    s.bytesKept (s.header e) (fun j => j ≤ 5) ∧ (s.header e).acc = s.acc ∧ s.statusKept (s.header e) ∧
      s.outsideKept (s.header e) := by
  refine ⟨fun j hj => ?_, by simp, by simp [State.statusKept], by simp [State.outsideKept]⟩
  rw [State.header_readByte, if_neg (by omega)]

/-- Settles O41: the six bytes are those of the header's table, in order. -/
theorem hdrWritesTheHeader : Obligations.HdrWritesTheHeader := by
  intro s
  have byte (j : Nat) (hj : j < 6) := s.header_byte s.ports hj
  exact ⟨_, exec_hdr s, byte 0 (by decide), byte 1 (by decide), byte 2 (by decide), byte 3 (by decide),
    byte 4 (by decide), byte 5 (by decide), s.header_seq s.ports, s.header_frame s.ports⟩

/-! ### The payload as it is sent -/

theorem wirePayload_of_version_one {e : Ports} (h : e.version = 1) :
    wirePayload e = counterBytes e ++ e.txbuf :: otherStats e ++ [0, 0, 0] := if_pos h

theorem wirePayload_of_version_zero {e : Ports} (h : e.version = 0) :
    wirePayload e = e.txbuf :: otherStats e ++
      [hiByte e.rxErrors, loByte e.rxErrors, hiByte e.corrected, loByte e.corrected] ++ [0, 0, 0] :=
  if_neg (by rw [h]; decide)

theorem State.encodePayload_readBytes (e : Ports) (s : State) : (s.encodePayload e).readBytes 6 12 = payloadBytes e :=
  s.readBytes_writeBytes 6 (payloadBytes_length e) (by decide)

/-- The payload span after FIXEND of a v0.9 sample (42_byteorder.md R172). -/
theorem State.fixEndianness_readBytes_v09 {e : Ports} (h : isV10 e = false) (s : State) :
    (s.fixEndianness e).readBytes 6 12 =
      s.readBytes 6 5 ++ [s.readByte 12, s.readByte 11, s.readByte 14, s.readByte 13] ++ s.readBytes 15 3 := by
  obtain ⟨h11, h12, h13, h14, hkept⟩ := s.fixEndianness_swaps_v09 h
  have hfront : (s.fixEndianness e).readBytes 6 5 = s.readBytes 6 5 :=
    s.readBytes_congr _ 6 5 fun j _ _ => hkept j (by omega)
  have hback : (s.fixEndianness e).readBytes 15 3 = s.readBytes 15 3 :=
    s.readBytes_congr _ 15 3 fun j _ _ => hkept j (by omega)
  rw [State.readBytes_append _ 6 9 3, State.readBytes_append _ 6 5 4, hfront, hback, ← h11, ← h12, ← h13, ← h14]
  rfl

/-- ENCODE and FIXEND leave the payload of the spec's tables: 41_encoder.md R144 for v1.0, which FIXEND leaves alone, and
R145 for v0.9, with each counter's bytes swapped. -/
theorem State.fixEndianness_encodePayload_readBytes (e : Ports) (s : State) :
    ((s.encodePayload e).fixEndianness e).readBytes 6 12 = wirePayload e := by
  have hencoded := s.encodePayload_readBytes e
  obtain h | h := BitVec.eq_zero_or_eq_one e.version
  · have byte := State.encodePayload_byte (payloadBytes_of_version_zero h) s
    rw [payloadBytes_of_version_zero h, State.readBytes_append _ 6 9 3, State.readBytes_append _ 6 5 4] at hencoded
    obtain ⟨hfront, hpad⟩ := List.append_inj hencoded rfl
    obtain ⟨hstats, _⟩ := List.append_inj hfront rfl
    rw [State.fixEndianness_readBytes_v09 (isV10_of_version_zero h), wirePayload_of_version_zero h, hstats, hpad,
      byte 6 rfl, byte 5 rfl, byte 8 rfl, byte 7 rfl]
  · rw [State.fixEndianness_v10 e _ (isV10_of_version_one h), hencoded, payloadBytes_of_version_one h,
      wirePayload_of_version_one h]

/-! ### The composed frame -/

/-- Steps 1 to 3 of REPORT (43_composer.md R193): the header and the payload, before the checksum. -/
def State.composeBody (e : Ports) (s : State) : State := ((s.header e).encodePayload e).fixEndianness e

theorem State.compose_eq (e : Ports) (s : State) : s.compose e = (s.composeBody e).crcAppend (reportSeed e) := rfl

/-- ENCODE and FIXEND write nothing outside the payload (41_encoder.md R149, 42_byteorder.md R175). -/
theorem State.composeBody_readByte_other (e : Ports) (s : State) {j : Nat} (hj : j < 6 ∨ 17 < j) :
    (s.composeBody e).readByte j = (s.header e).readByte j := by
  rw [State.composeBody, State.fixEndianness_readByte_other _ _ _ (by omega), State.encodePayload_readByte,
    if_neg (by omega)]

theorem State.composeBody_readBytes (e : Ports) (s : State) :
    (s.composeBody e).readBytes 0 18 = wireHeader e s.seq ++ wirePayload e := by
  have hheader : (s.composeBody e).readBytes 0 6 = wireHeader e s.seq := by
    rw [← State.header_readBytes]
    exact State.readBytes_congr _ _ 0 6 fun j _ hj => s.composeBody_readByte_other e (.inl (by omega))
  have hpayload : (s.composeBody e).readBytes 6 12 = wirePayload e :=
    (s.header e).fixEndianness_encodePayload_readBytes e
  rw [State.readBytes_append _ 0 6 12, hheader, hpayload]

/-- HDR has written the length that CRCAPP reads (43_composer.md R193). -/
theorem State.composeBody_payloadLen (e : Ports) (s : State) : (s.composeBody e).payloadLen = 12 := by
  rw [State.payloadLen, State.composeBody_readByte_other e s (by decide), State.header_byte e s (by decide)]
  rfl

/-- The checksum covers frame bytes 1..17 (43_composer.md R200). -/
theorem State.composeBody_coveredBytes (e : Ports) (s : State) :
    (s.composeBody e).coveredBytes = (wireHeader e s.seq).drop 1 ++ wirePayload e := by
  have hbody := s.composeBody_readBytes e
  rw [State.readBytes_append _ 0 1 17] at hbody
  rw [State.coveredBytes, State.composeBody_payloadLen]
  exact congrArg (List.drop 1) hbody

theorem reportSeed_toList (e : Ports) : (reportSeed e).toList = if e.version = 1 then [0x15] else [] := by
  rw [reportSeed, apply_ite Option.toList]
  simp only [isV10_iff]
  rfl

theorem State.composeBody_checksumWith (e : Ports) (s : State) :
    (s.composeBody e).checksumWith (reportSeed e) = wireChecksum e s.seq := by
  rw [State.checksumWith, State.composeBody_coveredBytes, reportSeed_toList]
  rfl

theorem State.compose_acc (e : Ports) (s : State) : (s.compose e).acc = wireChecksum e s.seq := by
  rw [State.compose_eq, State.crcAppend_acc, State.composeBody_checksumWith]

/-- Composing leaves the frame of the spec's tables in `PBUF[0..19]` (43_composer.md R200). -/
theorem State.compose_readBytes (e : Ports) (s : State) : (s.compose e).readBytes 0 20 = wireFrame e s.seq := by
  obtain ⟨hlo, hhi, hkept, _⟩ := (s.composeBody e).crcAppend_frame (reportSeed e)
  rw [State.composeBody_payloadLen, State.composeBody_checksumWith] at hlo hhi
  rw [State.composeBody_payloadLen] at hkept
  have hbody : (s.compose e).readBytes 0 18 = wireHeader e s.seq ++ wirePayload e := by
    rw [← State.composeBody_readBytes]
    exact State.readBytes_congr _ _ 0 18 fun j _ hj => hkept j (by omega)
  have hsum : (s.compose e).readBytes 18 2 = [loByte (wireChecksum e s.seq), hiByte (wireChecksum e s.seq)] := by
    rw [← hlo, ← hhi]
    rfl
  rw [State.readBytes_append _ 0 18 2, hbody, hsum]
  rfl

theorem State.compose_byte (e : Ports) (s : State) {j : Nat} (hj : j < 20) :
    (s.compose e).readByte j = (wireFrame e s.seq).getD j 0 := by
  rw [← State.compose_readBytes, State.readBytes_getD _ hj, Nat.zero_add]

/-- Composing writes `PBUF[0..19]` alone of the buffer (43_composer.md R193). -/
theorem State.compose_bytesKept (e : Ports) (s : State) : s.bytesKept (s.compose e) (fun j => j < 20) := by
  intro j hj
  rw [State.compose_eq, State.crcAppend_readByte, State.composeBody_payloadLen, if_neg (by omega), if_neg (by omega),
    State.composeBody_readByte_other e s (by omega), State.header_readByte, if_neg (by omega)]

/-! ### REPORT -/

/-- What a REPORT does whether it sends or drops: the composed frame, its checksum and the advanced `SEQ`
(43_composer.md R195). -/
theorem State.flush_compose_frame (e : Ports) (s : State) :
    (∀ j, j < 20 → ((s.compose e).flush e).readByte j = (wireFrame e s.seq).getD j 0) ∧
      s.bytesKept ((s.compose e).flush e) (fun j => j < 20) ∧
      ((s.compose e).flush e).acc = wireChecksum e s.seq ∧ ((s.compose e).flush e).seq = s.seq + 1 ∧
      ((s.compose e).flush e).errCmd = s.errCmd ∧ ((s.compose e).flush e).errBus = s.errBus ∧
      ((s.compose e).flush e).ports = s.ports ∧ ((s.compose e).flush e).inputs = s.inputs ∧
      ((s.compose e).flush e).readData = s.readData ∧ ((s.compose e).flush e).resetDraw = s.resetDraw := by
  refine ⟨fun j hj => ?_, fun j hj => ?_, ?_, by simp⟩
  · rw [State.flush_readByte, State.compose_byte e s hj]
  · rw [State.flush_readByte, State.compose_bytesKept e s j hj]
  · rw [State.flush_acc, State.compose_acc]

/-- Settles O43: the gate opens, and the bytes that it hands out are those of the composed frame. -/
theorem reportSendsTheComposedFrame : Obligations.ReportSendsTheComposedFrame := by
  intro s hroom frame
  have hfits : txFits s.ports = true := (txFits_iff _).mpr hroom
  have hframe : (s.compose s.ports).readBytes 0 Config.frameLen = frame := s.compose_readBytes s.ports
  have hlength : frame.length = 20 := hframe ▸ State.readBytes_length _ _ _
  refine ⟨_, exec_report s, ?_, hlength, ?_, s.flush_compose_frame s.ports⟩
  · rw [State.flush_output, if_pos hfits, State.compose_output, hframe]
  · rw [State.flush_last_of_room, if_neg (Nat.not_lt.mpr hroom)]

/-- Settles O44: the gate stays closed, and the rest is as in a sent REPORT. -/
theorem reportDropsWithoutRoom : Obligations.ReportDropsWithoutRoom := by
  intro s hroom frame
  have hfits : ¬ txFits s.ports = true := fun h => absurd ((txFits_iff _).mp h) (Nat.not_le.mpr hroom)
  refine ⟨_, exec_report s, ?_, ?_, s.flush_compose_frame s.ports⟩
  · rw [State.flush_output, if_neg hfits, State.compose_output]
  · rw [State.flush_last_of_room, if_pos hroom]

/-- Both commands put the old `SEQ` at frame offset 2 (43_composer.md R191). -/
theorem exec_readByte_two {i : Instr} {s t : State} (hi : i = .hdr ∨ i = .report) (h : exec i s = .next t) :
    t.readByte 2 = s.seq := by
  obtain rfl | rfl := hi <;> cases h
  · exact s.header_byte s.ports (j := 2) (by decide)
  · rw [State.flush_readByte]
    exact s.compose_byte s.ports (j := 2) (by decide)

/-- Settles O42: `SEQ` is a byte, so it wraps at 256. -/
theorem sequenceNumberAdvancesSentOrDropped : Obligations.SequenceNumberAdvancesSentOrDropped := by
  intro i s hi
  obtain ⟨t, ht⟩ := exec_completes i s
  have hseq : t.seq = s.seq + 1 := (exec_seq ht).trans (if_pos hi)
  refine ⟨t, ht, exec_readByte_two hi ht, ?_, ?_⟩
  · rw [hseq, BitVec.toNat_add]
    rfl
  · intro hff
    rw [hseq, hff]
    rfl

/-! ### REPORT as a sequence of commands -/

theorem execAll_cons {i : Instr} {is : List Instr} {s t : State} (h : exec i s = .next t) :
    execAll (i :: is) s = execAll is t := by
  simp only [execAll, h]

/-- The checksum command of the sample's version appends REPORT's checksum (43_composer.md R193, step 4). -/
theorem exec_reportCrcApp (e : Ports) (s : State) :
    exec (if e.version = 1 then .crcAppS 21 else .crcApp) s = .next (s.crcAppend (reportSeed e)) := by
  obtain h | h := BitVec.eq_zero_or_eq_one e.version
  · rw [reportSeed, isV10_of_version_zero h, h]
    rfl
  · rw [reportSeed, isV10_of_version_one h, h]
    rfl

/-- HDR, ENCODE and FIXEND keep the ports, so the four commands work on one sample. -/
theorem execAll_composeCommands (s : State) :
    execAll [.hdr, .encode, .fixEnd, if s.ports.version = 1 then .crcAppS 21 else .crcApp] s =
      .next (s.compose s.ports) := by
  have hencode : exec .encode (s.header s.ports) = .next ((s.header s.ports).encodePayload s.ports) := by
    rw [exec_encode, State.header_ports]
  have hfixEnd : exec .fixEnd ((s.header s.ports).encodePayload s.ports) = .next (s.composeBody s.ports) := by
    rw [exec_fixEnd, State.encodePayload_ports, State.header_ports]
    rfl
  rw [execAll_cons (exec_hdr s), execAll_cons hencode, execAll_cons hfixEnd,
    execAll_cons (exec_reportCrcApp s.ports _)]
  rfl

/-- Settles O45: the commands compose REPORT's frame, and a flush writes neither the buffer nor `SEQ` nor `ACC`. -/
theorem reportEqualsItsCommandSequence : Obligations.ReportEqualsItsCommandSequence := by
  intro s commands
  exact ⟨_, _, execAll_composeCommands s, exec_report s, by simp⟩

end Sys2Proof.Machine
end

/-! PROOFS. Errors (60_exceptions.md): every step completes, which error bits a step can set, and the `STATUS` bit that each
cause code names. -/

section
namespace Sys2Proof.Machine

/-! ### What a step does to the error bits -/

/-- The error bits of `t` are those of `s`, or those of `s` after one error (60_exceptions.md R236). -/
def State.AtMostOneRaised (s t : State) : Prop :=
  (t.errCmd = s.errCmd ∧ t.errBus = s.errBus) ∨ (t.errCmd = true ∧ t.errBus = s.errBus) ∨
    (t.errCmd = s.errCmd ∧ t.errBus = true)

/-- No command raises an error or clears one (60_exceptions.md R230, R237). -/
theorem exec_errors {i : Instr} {s t : State} (h : exec i s = .next t) : t.errCmd = s.errCmd ∧ t.errBus = s.errBus := by
  cases i <;> cases h <;> simp

/-- A `CMD` write completes; it raises ERR_CMD when its word is illegal and no error otherwise (60_exceptions.md R231). -/
theorem executeCommand_errors (w : Word) (s : State) : ∃ t, executeCommand w s = .next t ∧ s.AtMostOneRaised t := by
  obtain ⟨i, _, hw⟩ | ⟨_, _, hw⟩ := executeCommand_cases w s
  · obtain ⟨t, ht⟩ := exec_completes i s
    exact ⟨t, hw.trans ht, .inl (exec_errors ht)⟩
  · exact ⟨_, hw, .inr (.inl ⟨rfl, rfl⟩)⟩

/-- A bus access completes; a refused one raises ERR_BUS and runs no command (60_exceptions.md R232, R236). -/
theorem busAccess_errors (a : BusAccess) (s : State) : ∃ t, busAccess a s = .next t ∧ s.AtMostOneRaised t := by
  obtain ⟨_, _, _, hb⟩ | ⟨_, _, _, hb⟩ | ⟨w, _, _, hb⟩ | ⟨w, i, _, _, hb⟩ | ⟨_, _, _, _, hb⟩ | ⟨_, _, _, _, hb⟩ :=
    busAccess_cases a s <;> rw [hb]
  · exact ⟨_, rfl, .inl ⟨rfl, rfl⟩⟩
  · exact ⟨_, rfl, .inr (.inr ⟨rfl, rfl⟩)⟩
  · exact executeCommand_errors w s
  · exact ⟨_, rfl, .inl ⟨s.writeByte_errCmd i _, s.writeByte_errBus i _⟩⟩
  · exact ⟨_, rfl, .inl ⟨rfl, rfl⟩⟩
  · exact ⟨_, rfl, .inr (.inr ⟨rfl, rfl⟩)⟩

/-- A step completes; it clears both error bits by the reset input, and raises at most one error otherwise. -/
theorem step_errors (s : State) :
    ∃ t, step s = .next t ∧
      ((∃ rest, s.inputs = .reset :: rest) ∧ t.errCmd = false ∧ t.errBus = false ∨ s.AtMostOneRaised t) := by
  obtain ⟨_, hs⟩ | ⟨a, rest, _, hs⟩ | ⟨_, _, _, hs⟩ | ⟨rest, hr, hs⟩ := step_cases s <;> rw [hs]
  · exact ⟨_, rfl, .inr (.inl ⟨rfl, rfl⟩)⟩
  · obtain ⟨t, ht, herr⟩ := busAccess_errors a (s.setInputs rest)
    exact ⟨t, ht, .inr herr⟩
  · exact ⟨_, rfl, .inr (.inl ⟨rfl, rfl⟩)⟩
  · exact ⟨_, rfl, .inl ⟨⟨rest, hr⟩, rfl, rfl⟩⟩

/-- Settles O16: idling, a port change and a reset answer a next state, and so does every bus access. -/
theorem everyStepCompletes : Obligations.EveryStepCompletes := by
  intro s
  obtain ⟨t, ht, _⟩ := step_errors s
  exact ⟨t, ht⟩

/-- Settles O18: a step other than a reset keeps each error bit or sets it. -/
theorem errorBitsStayUntilReset : Obligations.ErrorBitsStayUntilReset := by
  intro s t h hreset
  obtain ⟨u, hu, herr⟩ := step_errors s
  cases hu.symm.trans h
  obtain ⟨⟨rest, hr⟩, _⟩ | ⟨hcmd, hbus⟩ | ⟨hcmd, hbus⟩ | ⟨hcmd, hbus⟩ := herr
  · exact absurd hr (hreset rest)
  · exact ⟨hcmd.trans, hbus.trans⟩
  · exact ⟨fun _ => hcmd, hbus.trans⟩
  · exact ⟨hcmd.trans, fun _ => hbus⟩

/-- Settles O19: one of the two bits stays as it was, which is clear, or the reset input has cleared both. -/
theorem oneAccessRaisesAtMostOneError : Obligations.OneAccessRaisesAtMostOneError := by
  rintro s t h ⟨hcleanCmd, hcleanBus⟩ ⟨hsetCmd, hsetBus⟩
  obtain ⟨u, hu, herr⟩ := step_errors s
  cases hu.symm.trans h
  obtain ⟨_, hcmd, _⟩ | ⟨hcmd, _⟩ | ⟨_, hbus⟩ | ⟨hcmd, _⟩ := herr
  · simp [hcmd] at hsetCmd
  · simp [hcmd, hcleanCmd] at hsetCmd
  · simp [hbus, hcleanBus] at hsetBus
  · simp [hcmd, hcleanCmd] at hsetCmd

/-- Settles O4: with no input waiting a step answers the state itself. -/
theorem idleBlockHoldsItsState : Obligations.IdleBlockHoldsItsState := step_idle

/-! ### The cause codes -/

/-- Bit number cause code plus 1 is the error's `STATUS` bit (60_exceptions.md R233). -/
theorem Fault.one_shiftLeft_causeCode (e : Fault) :
    (1 <<< (e.causeCode + 1) : Word) = BitVec.twoPow 32 e.statusBit := by
  cases e <;> rfl

theorem Fault.statusBit_lt (e : Fault) : e.statusBit < 32 := by
  cases e <;> decide

/-- An error sets its own bit of the `STATUS` word (60_exceptions.md R231, R232). -/
theorem State.statusWord_raise_getLsbD (e : Fault) (s : State) (n : Nat) :
    (s.raise e).statusWord.getLsbD n = (s.statusWord.getLsbD n || decide (e.statusBit = n)) := by
  simp only [State.statusWord_getLsbD]
  cases e <;> match n with
    | 0 | 1 | 2 | 3 => simp [Fault.statusBit]
    | n + 4 => simp [Fault.statusBit]

/-- Settles O20: the word that is or-ed in has the error's own bit alone. -/
theorem causeCodesNameTheStatusBits : Obligations.CauseCodesNameTheStatusBits := by
  refine ⟨rfl, rfl, fun e => by cases e <;> decide, fun e s => ?_⟩
  apply BitVec.eq_of_getLsbD_eq
  intro n _
  rw [State.statusWord_raise_getLsbD, e.one_shiftLeft_causeCode, BitVec.getLsbD_or, BitVec.getLsbD_twoPow]
  simp [e.statusBit_lt]

end Sys2Proof.Machine
end

/-! PROOFS. Reset (70_reset_and_hazards.md): the registers of the reset state, and what the reset input does to a state. -/

section
namespace Sys2Proof.Machine

/-- With `LAST` 0b00 and no error bit set the `STATUS` word is 0 (10_state.md R30). -/
theorem State.statusWord_eq_zero {s : State} (hlast : s.last = 0) (hcmd : s.errCmd = false) (hbus : s.errBus = false) :
    s.statusWord = 0 := by
  apply BitVec.eq_of_getLsbD_eq
  intro n _
  simp [State.statusWord_getLsbD, hlast, hcmd, hbus]

/-- Settles O1: the fields are those of `State.reset`, and the `STATUS` word is 0 because its fields are clear. -/
theorem resetRegistersHoldTheirValues : Obligations.ResetRegistersHoldTheirValues :=
  ⟨rfl, rfl, rfl, rfl, rfl, rfl, State.statusWord_eq_zero rfl rfl rfl⟩

/-- The reset input leaves the list and resets the block (70_reset_and_hazards.md R260). -/
theorem step_reset {s : State} {rest : List Input} (h : s.inputs = .reset :: rest) :
    step s = .next (s.setInputs rest).resetBlock :=
  step_input s .reset rest h

/-- Settles O3: the step answers `State.resetBlock`, whose buffer lists no byte, so each reads as the new draw's. -/
theorem resetInputResetsEveryElement : Obligations.ResetInputResetsEveryElement := by
  intro s rest h
  have hbytes (i : Nat) (_ : i < 263) := (s.setInputs rest).resetBlock_readByte i
  exact ⟨_, step_reset h, rfl, rfl, rfl, rfl, rfl, rfl, hbytes, rfl, rfl, rfl, rfl⟩

end Sys2Proof.Machine
end
